-- ==== Sys2Proof/Word.lean ====
section
/-! DEFINITION. The word of this block: every wire byte and every field is one unsigned byte (R6, R42, R43). -/

namespace Sys2Proof

/-- R6: a byte, an unsigned 8-bit value 0..255. -/
abbrev Byte := BitVec 8

end Sys2Proof
end

