-- ==== Sys2Proof/Syntax.lean ====
section
/-! DEFINITION. The abstract syntax of the dialect: the value types of R23 to R26, the payload shapes of R150, the error
kinds of R230, the slots of the catalogue table (R22), and `Instr`, one constructor for each row of the opcode table. -/

namespace Sys2Proof

/-! ## Field domains (R24) -/

/-- R101. -/
inductive Toggle where
  | off | on
  deriving DecidableEq, Repr

/-- R102. -/
inductive BlendMode where
  | blend | switch
  deriving DecidableEq, Repr

/-- R103: named by byte (D11). -/
inductive OscRange where
  | oscRange0 | oscRange1 | oscRange2 | oscRange3
  deriving DecidableEq, Repr

/-- R104. -/
inductive KeyTrackMode where
  | track | hold
  deriving DecidableEq, Repr

/-- R107: named by byte (D11). -/
inductive LfoShape where
  | lfoShape0 | lfoShape1 | lfoShape2 | lfoShape3 | lfoShape4
  deriving DecidableEq, Repr

/-- R109: named by byte (D11). -/
inductive ModSource where
  | modSource0 | modSource1 | modSource2 | modSource3
  deriving DecidableEq, Repr

/-- R110: named by byte (D11). -/
inductive AssignOutTarget where
  | assignOut0 | assignOut1 | assignOut2 | assignOut3 | assignOut4
  deriving DecidableEq, Repr

/-- R111. -/
inductive EnvRetriggerMode where
  | staccato | legato
  deriving DecidableEq, Repr

/-- R24: the thirteen codec domains. -/
inductive Domain where
  | toggle | blendMode | oscRange | keyTrackMode | semitoneOffset | lfoIndex | lfoShape
  | lfoPhaseOffset | modSource | assignOutTarget | envRetriggerMode | midiChannel | percentage
  deriving DecidableEq, Repr

/-- R24: a value of one of the thirteen domains. The numeric ones are plain numbers, as the spec writes them (a semitone
offset is a mathematical integer, D25; a phase is its degrees; a percentage is its level, D12); `FieldValue.wf` bounds them. -/
inductive FieldValue where
  | toggle (t : Toggle)
  | blendMode (m : BlendMode)
  | oscRange (r : OscRange)
  | keyTrackMode (m : KeyTrackMode)
  | semitoneOffset (s : Int)
  | lfoIndex (n : Nat)
  | lfoShape (s : LfoShape)
  | lfoPhaseOffset (degrees : Nat)
  | modSource (m : ModSource)
  | assignOutTarget (t : AssignOutTarget)
  | envRetriggerMode (m : EnvRetriggerMode)
  | midiChannel (n : Nat)
  | percentage (level : Nat)
  deriving DecidableEq, Repr

/-- The domain a field value belongs to. -/
def FieldValue.domain : FieldValue → Domain
  | .toggle _ => .toggle
  | .blendMode _ => .blendMode
  | .oscRange _ => .oscRange
  | .keyTrackMode _ => .keyTrackMode
  | .semitoneOffset _ => .semitoneOffset
  | .lfoIndex _ => .lfoIndex
  | .lfoShape _ => .lfoShape
  | .lfoPhaseOffset _ => .lfoPhaseOffset
  | .modSource _ => .modSource
  | .assignOutTarget _ => .assignOutTarget
  | .envRetriggerMode _ => .envRetriggerMode
  | .midiChannel _ => .midiChannel
  | .percentage _ => .percentage

/-! ## Catalogue (R22, R25, R150) -/

/-- R150: how many field bytes follow a catalogue opcode, and which codec reads each. -/
inductive Shape where
  | unit
  | one (d : Domain)
  | pair (d1 d2 : Domain)
  deriving DecidableEq, Repr

/-- R150: the values an entry carries. -/
inductive Payload where
  | unit
  | one (f : FieldValue)
  | pair (f1 f2 : FieldValue)
  deriving DecidableEq, Repr

/-- The shape a payload has. -/
def Payload.shape : Payload → Shape
  | .unit => .unit
  | .one f => .one f.domain
  | .pair f1 f2 => .pair f1.domain f2.domain

/-- The names of parameter variants. Five are named by the spec (R157 to R161). The source names none of the other
entries (R162): they are `unnamed` with a number. The last four are the variants R163 excludes from the table. -/
inductive VariantName where
  | paraphonicMode | resetLfoShapeOrder | resetKeyRange | lfoShapeAtIndex | lfoPhaseAtIndex
  | unnamed (id : Nat)
  | calibrationModeTrigger | keyRangeBounds | notePriority | pitchBendRange
  deriving DecidableEq, Repr

/-- R22: one non-empty slot of the table `CAT`. -/
structure Slot where
  opcode : Byte
  name : VariantName
  shape : Shape
  deriving DecidableEq, Repr

/-- R25: `V(name)`, `V(name, f)` or `V(name, f1, f2)`. -/
structure ParameterValue where
  name : VariantName
  payload : Payload
  deriving DecidableEq, Repr

/-! ## Messages (R23, R26) -/

/-- R23. -/
inductive DeviceAddress where
  | channel (n : Nat)
  | broadcast
  deriving DecidableEq, Repr, Inhabited

/-- R26: the five messages. -/
inductive Message where
  | setParameter (a : DeviceAddress) (pv : ParameterValue)
  | restoreParameter (a : DeviceAddress)
  | requestVersion (a : DeviceAddress)
  | reportVersion (a : DeviceAddress) (s : List Byte)
  | parameterUpdate (a : DeviceAddress) (pv : ParameterValue)
  deriving DecidableEq, Repr, Inhabited

/-- R230: the five failures of a decode operation. -/
inductive ErrorKind where
  | structuralMismatch | unknownOpcode | invalidEnumValue | truncatedInput | trailingBytes
  deriving DecidableEq, Repr

/-! ## Instructions -/

/-- The rows of the opcode table: the five frames (R188 to R192), the five named catalogue entries (R157 to R161) and the
unnamed entries of `CAT` (R162). A frame carries its whole message, an entry its field values. -/
inductive Instr where
  | setParameter (a : DeviceAddress) (pv : ParameterValue)
  | restoreParameter (a : DeviceAddress)
  | requestVersion (a : DeviceAddress)
  | reportVersion (a : DeviceAddress) (v : List Byte)
  | parameterUpdate (a : DeviceAddress) (pv : ParameterValue)
  | paraphonicMode (t : Toggle)
  | resetLfoShapeOrder
  | resetKeyRange
  | lfoShapeAtIndex (n : Nat) (sh : LfoShape)
  | lfoPhaseAtIndex (n : Nat) (degrees : Nat)
  | catEntry (name : VariantName) (p : Payload)
  deriving DecidableEq, Repr

/-- The frame instruction of a message. -/
def Message.toInstr : Message → Instr
  | .setParameter a pv => .setParameter a pv
  | .restoreParameter a => .restoreParameter a
  | .requestVersion a => .requestVersion a
  | .reportVersion a v => .reportVersion a v
  | .parameterUpdate a pv => .parameterUpdate a pv

/-- The entry instruction of a parameter value: a named row where name and payload are that row's, else the row of the
unnamed entries. -/
def ParameterValue.toInstr (pv : ParameterValue) : Instr :=
  match pv.name, pv.payload with
  | .paraphonicMode, .one (.toggle t) => .paraphonicMode t
  | .resetLfoShapeOrder, .unit => .resetLfoShapeOrder
  | .resetKeyRange, .unit => .resetKeyRange
  | .lfoShapeAtIndex, .pair (.lfoIndex n) (.lfoShape sh) => .lfoShapeAtIndex n sh
  | .lfoPhaseAtIndex, .pair (.lfoIndex n) (.lfoPhaseOffset d) => .lfoPhaseAtIndex n d
  | name, p => .catEntry name p

/-- The message of a frame instruction. -/
def Instr.message? : Instr → Option Message
  | .setParameter a pv => some (.setParameter a pv)
  | .restoreParameter a => some (.restoreParameter a)
  | .requestVersion a => some (.requestVersion a)
  | .reportVersion a v => some (.reportVersion a v)
  | .parameterUpdate a pv => some (.parameterUpdate a pv)
  | .paraphonicMode _ => none
  | .resetLfoShapeOrder => none
  | .resetKeyRange => none
  | .lfoShapeAtIndex _ _ => none
  | .lfoPhaseAtIndex _ _ => none
  | .catEntry _ _ => none

/-- The parameter value of an entry instruction. -/
def Instr.parameter? : Instr → Option ParameterValue
  | .setParameter _ _ => none
  | .restoreParameter _ => none
  | .requestVersion _ => none
  | .reportVersion _ _ => none
  | .parameterUpdate _ _ => none
  | .paraphonicMode t => some ⟨.paraphonicMode, .one (.toggle t)⟩
  | .resetLfoShapeOrder => some ⟨.resetLfoShapeOrder, .unit⟩
  | .resetKeyRange => some ⟨.resetKeyRange, .unit⟩
  | .lfoShapeAtIndex n sh => some ⟨.lfoShapeAtIndex, .pair (.lfoIndex n) (.lfoShape sh)⟩
  | .lfoPhaseAtIndex n d => some ⟨.lfoPhaseAtIndex, .pair (.lfoIndex n) (.lfoPhaseOffset d)⟩
  | .catEntry name p => some ⟨name, p⟩

/-- What stands at the decoder's cursor where an instruction begins: a frame (offset 0) or a catalogue entry (offset 7 or 8). -/
inductive Fetch where
  | frame | entry
  deriving DecidableEq, Repr

end Sys2Proof
end

