-- ==== Sys2Proof/Machine/Constants.lean ====
section
/-! DEFINITION. The hardwired constants of R21 and the numeric codes of R230. -/

namespace Sys2Proof

/-- R21: frame start byte. -/
abbrev sox : Byte := 0xF0#8
/-- R21: broadcast device-address byte. -/
abbrev bcast : Byte := 0x7F#8
/-- R21: protocol version byte. -/
abbrev version : Byte := 0x01#8
/-- R21: frame end byte. -/
abbrev eox : Byte := 0xF7#8
/-- R21: device-kind byte. -/
abbrev devKind : Byte := 0x28#8
/-- R21: the three bytes of the manufacturer identifier, in frame order. -/
abbrev mfr0 : Byte := 0x00#8
/-- R21. -/
abbrev mfr1 : Byte := 0x20#8
/-- R21. -/
abbrev mfr2 : Byte := 0x32#8
/-- R21: message kind SetParameter. -/
abbrev kSet : Byte := 0x0A#8
/-- R21: message kind RestoreParameter. -/
abbrev kRestore : Byte := 0x0B#8
/-- R21: message kind RequestVersion. -/
abbrev kReqVer : Byte := 0x73#8
/-- R21: message kind ReportVersion. -/
abbrev kRepVer : Byte := 0x74#8
/-- R21: message kind ParameterUpdate. -/
abbrev kUpdate : Byte := 0x5A#8

/-- R61: the fixed five bytes every frame begins with. -/
def header : List Byte := [sox, mfr0, mfr1, mfr2, devKind]

/-- R230 (D14): the numeric code of each error kind in `DERR`. -/
def ErrorKind.code : ErrorKind → Nat
  | .structuralMismatch => 1
  | .unknownOpcode => 2
  | .invalidEnumValue => 3
  | .truncatedInput => 4
  | .trailingBytes => 5

end Sys2Proof
end

