-- ==== Sys2Proof/Machine/Operands.lean ====
section
/-! DEFINITION. Every operand form: the thirteen value codecs, each a pair `decodeByte` and `encode` (R100 to R113), the
placeholder (R114), the device address (R183, R184) and the percentage quantizer (R115). Bytes are read unsigned. -/

namespace Sys2Proof

/-- R101. -/
def Toggle.decodeByte (v : Byte) : Option Toggle :=
  match v.toNat with
  | 0 => some .off
  | 1 => some .on
  | _ => none

/-- R101. -/
def Toggle.encode : Toggle → Byte
  | .off => 0x00#8
  | .on => 0x01#8

/-- R102: `Blend` is 0x00. -/
def BlendMode.decodeByte (v : Byte) : Option BlendMode :=
  match v.toNat with
  | 0 => some .blend
  | 1 => some .switch
  | _ => none

/-- R102. -/
def BlendMode.encode : BlendMode → Byte
  | .blend => 0x00#8
  | .switch => 0x01#8

/-- R103. -/
def OscRange.decodeByte (v : Byte) : Option OscRange :=
  match v.toNat with
  | 0 => some .oscRange0
  | 1 => some .oscRange1
  | 2 => some .oscRange2
  | 3 => some .oscRange3
  | _ => none

/-- R103. -/
def OscRange.encode : OscRange → Byte
  | .oscRange0 => 0x00#8
  | .oscRange1 => 0x01#8
  | .oscRange2 => 0x02#8
  | .oscRange3 => 0x03#8

/-- R104. -/
def KeyTrackMode.decodeByte (v : Byte) : Option KeyTrackMode :=
  match v.toNat with
  | 0 => some .track
  | 1 => some .hold
  | _ => none

/-- R104. -/
def KeyTrackMode.encode : KeyTrackMode → Byte
  | .track => 0x00#8
  | .hold => 0x01#8

/-- R105: offset = byte − 12, for bytes up to 0x18. -/
def semitoneDecodeByte (v : Byte) : Option Int :=
  if v.toNat ≤ 0x18 then some ((v.toNat : Int) - 12) else none

/-- R105: byte = offset + 12. -/
def semitoneEncode (s : Int) : Byte := BitVec.ofNat 8 (s + 12).toNat

/-- R106: index = byte + 1, for bytes up to 0x04 (D10). -/
def lfoIndexDecodeByte (v : Byte) : Option Nat :=
  if v.toNat ≤ 0x04 then some (v.toNat + 1) else none

/-- R106: byte = index − 1. -/
def lfoIndexEncode (n : Nat) : Byte := BitVec.ofNat 8 (n - 1)

/-- R107. -/
def LfoShape.decodeByte (v : Byte) : Option LfoShape :=
  match v.toNat with
  | 0 => some .lfoShape0
  | 1 => some .lfoShape1
  | 2 => some .lfoShape2
  | 3 => some .lfoShape3
  | 4 => some .lfoShape4
  | _ => none

/-- R107. -/
def LfoShape.encode : LfoShape → Byte
  | .lfoShape0 => 0x00#8
  | .lfoShape1 => 0x01#8
  | .lfoShape2 => 0x02#8
  | .lfoShape3 => 0x03#8
  | .lfoShape4 => 0x04#8

/-- R108: degrees = 45 × byte, for bytes up to 0x07 (D10). -/
def lfoPhaseDecodeByte (v : Byte) : Option Nat :=
  if v.toNat ≤ 0x07 then some (45 * v.toNat) else none

/-- R108: byte = degrees / 45. -/
def lfoPhaseEncode (degrees : Nat) : Byte := BitVec.ofNat 8 (degrees / 45)

/-- R109. -/
def ModSource.decodeByte (v : Byte) : Option ModSource :=
  match v.toNat with
  | 0 => some .modSource0
  | 1 => some .modSource1
  | 2 => some .modSource2
  | 3 => some .modSource3
  | _ => none

/-- R109. -/
def ModSource.encode : ModSource → Byte
  | .modSource0 => 0x00#8
  | .modSource1 => 0x01#8
  | .modSource2 => 0x02#8
  | .modSource3 => 0x03#8

/-- R110. -/
def AssignOutTarget.decodeByte (v : Byte) : Option AssignOutTarget :=
  match v.toNat with
  | 0 => some .assignOut0
  | 1 => some .assignOut1
  | 2 => some .assignOut2
  | 3 => some .assignOut3
  | 4 => some .assignOut4
  | _ => none

/-- R110. -/
def AssignOutTarget.encode : AssignOutTarget → Byte
  | .assignOut0 => 0x00#8
  | .assignOut1 => 0x01#8
  | .assignOut2 => 0x02#8
  | .assignOut3 => 0x03#8
  | .assignOut4 => 0x04#8

/-- R111. -/
def EnvRetriggerMode.decodeByte (v : Byte) : Option EnvRetriggerMode :=
  match v.toNat with
  | 0 => some .staccato
  | 1 => some .legato
  | _ => none

/-- R111. -/
def EnvRetriggerMode.encode : EnvRetriggerMode → Byte
  | .staccato => 0x00#8
  | .legato => 0x01#8

/-- R112: channel = byte + 1, for bytes up to 0x0F; the arithmetic mapping for all sixteen channels (C1). -/
def midiChannelDecodeByte (v : Byte) : Option Nat :=
  if v.toNat ≤ 0x0F then some (v.toNat + 1) else none

/-- R112: byte = channel − 1. -/
def midiChannelEncode (n : Nat) : Byte := BitVec.ofNat 8 (n - 1)

/-- R113: the level itself, for bytes up to 0x3F. -/
def percentageDecodeByte (v : Byte) : Option Nat :=
  if v.toNat ≤ 0x3F then some v.toNat else none

/-- R113. -/
def percentageEncode (level : Nat) : Byte := BitVec.ofNat 8 level

/-- R100: the codec a domain names, read direction. -/
def Domain.decodeByte (d : Domain) (v : Byte) : Option FieldValue :=
  match d with
  | .toggle => (Toggle.decodeByte v).map .toggle
  | .blendMode => (BlendMode.decodeByte v).map .blendMode
  | .oscRange => (OscRange.decodeByte v).map .oscRange
  | .keyTrackMode => (KeyTrackMode.decodeByte v).map .keyTrackMode
  | .semitoneOffset => (semitoneDecodeByte v).map .semitoneOffset
  | .lfoIndex => (lfoIndexDecodeByte v).map .lfoIndex
  | .lfoShape => (LfoShape.decodeByte v).map .lfoShape
  | .lfoPhaseOffset => (lfoPhaseDecodeByte v).map .lfoPhaseOffset
  | .modSource => (ModSource.decodeByte v).map .modSource
  | .assignOutTarget => (AssignOutTarget.decodeByte v).map .assignOutTarget
  | .envRetriggerMode => (EnvRetriggerMode.decodeByte v).map .envRetriggerMode
  | .midiChannel => (midiChannelDecodeByte v).map .midiChannel
  | .percentage => (percentageDecodeByte v).map .percentage

/-- R100: the codec a domain names, write direction. -/
def FieldValue.encode : FieldValue → Byte
  | .toggle t => t.encode
  | .blendMode m => m.encode
  | .oscRange r => r.encode
  | .keyTrackMode m => m.encode
  | .semitoneOffset s => semitoneEncode s
  | .lfoIndex n => lfoIndexEncode n
  | .lfoShape s => s.encode
  | .lfoPhaseOffset d => lfoPhaseEncode d
  | .modSource m => m.encode
  | .assignOutTarget t => t.encode
  | .envRetriggerMode m => m.encode
  | .midiChannel n => midiChannelEncode n
  | .percentage l => percentageEncode l

/-- R114: what the encoder writes for the placeholder of a unit entry. -/
def placeholderEncode : Byte := 0x00#8

/-- R114: the placeholder read, `()` for every byte. -/
def placeholderDecodeByte (_v : Byte) : Option Unit := some ()

/-- R183: 0x00..0x0F are the channels (by the mapping of R112), 0x7F is broadcast, every other byte is invalid. -/
def addressDecodeByte (v : Byte) : Option DeviceAddress :=
  if v.toNat ≤ 0x0F then some (.channel (v.toNat + 1))
  else if v = bcast then some .broadcast
  else none

/-- R184. -/
def DeviceAddress.encode : DeviceAddress → Byte
  | .channel n => BitVec.ofNat 8 (n - 1)
  | .broadcast => bcast

/-- R115: the quantizer, floor(min(x, 100) × 63 / 100) in exact arithmetic. -/
def pctToLevel (x : Nat) : Nat := min x 100 * 63 / 100

end Sys2Proof
end

