-- ==== Sys2Proof/Config.lean ====
section
/-! DEFINITION. What the implementation fixes (R5): the catalogue table `CAT` and the buffer size `MAX_FRAME_LEN`, the
constraints the spec puts on them (R151, R5), and the free values. The parameters are OPEN: a `Config` is a field of
State, so a statement about every state is a statement about every table and every size (assumption 1). -/

namespace Sys2Proof

/-- R5: the parameters of the block. `cat` lists the non-empty slots of `CAT`. -/
structure Config where
  cat : List Slot
  maxFrameLen : Nat
  deriving DecidableEq, Repr

/-- R5: `N_CAT`, the number of entries of `CAT` (R151 item 7). -/
def Config.nCat (c : Config) : Nat := c.cat.length

/-- R163: the four variants that have no slot. -/
def VariantName.excluded : VariantName → Bool
  | .calibrationModeTrigger => true
  | .keyRangeBounds => true
  | .notePriority => true
  | .pitchBendRange => true
  | .paraphonicMode => false
  | .resetLfoShapeOrder => false
  | .resetKeyRange => false
  | .lfoShapeAtIndex => false
  | .lfoPhaseAtIndex => false
  | .unnamed _ => false

/-- R157 to R161: the shape of each named variant. -/
def VariantName.namedShape : VariantName → Option Shape
  | .paraphonicMode => some (.one .toggle)
  | .resetLfoShapeOrder => some .unit
  | .resetKeyRange => some .unit
  | .lfoShapeAtIndex => some (.pair .lfoIndex .lfoShape)
  | .lfoPhaseAtIndex => some (.pair .lfoIndex .lfoPhaseOffset)
  | .unnamed _ => none
  | .calibrationModeTrigger => none
  | .keyRangeBounds => none
  | .notePriority => none
  | .pitchBendRange => none

/-- R157: the one slot the source gives. -/
def paraphonicSlot : Slot := ⟨0x0F#8, .paraphonicMode, .one .toggle⟩

/-- R151: the constraints on the table, item by item, and R5's bound on `MAX_FRAME_LEN`. A slot is a function of its
opcode (R22), so no two entries of the list have one opcode. -/
abbrev Config.Admissible (c : Config) : Prop :=
  12 ≤ c.maxFrameLen ∧
  -- item 1: opcodes lie in 0x00..0x3B
  (∀ e ∈ c.cat, e.opcode.toNat ≤ 0x3B) ∧
  -- item 2: no opcode is a message kind
  (∀ e ∈ c.cat, e.opcode ∉ [kSet, kRestore, kUpdate, kReqVer, kRepVer]) ∧
  -- R22: one slot per opcode
  (c.cat.map (·.opcode)).Nodup ∧
  -- item 3: no two slots have the same name
  (c.cat.map (·.name)).Nodup ∧
  -- items 4 and 5: the five named variants each have a slot, ParaphonicMode at 0x0F
  paraphonicSlot ∈ c.cat ∧
  (∀ n ∈ [VariantName.resetLfoShapeOrder, .resetKeyRange, .lfoShapeAtIndex, .lfoPhaseAtIndex],
    n ∈ c.cat.map (·.name)) ∧
  -- items 4 and 5: a named variant has the shape its rule gives
  (∀ e ∈ c.cat, e.name.namedShape = none ∨ e.name.namedShape = some e.shape) ∧
  -- item 6: no slot for an excluded variant
  (∀ e ∈ c.cat, e.name.excluded = false)

/-! ## Free values -/

/-- OPEN (R5, I1): the slots of the device's table other than ParaphonicMode's. No source gives them. -/
opaque Config.openSlots : List Slot

/-- OPEN (R5, I2): how much larger than 12 bytes the frame buffers are. -/
opaque Config.extraFrameLen : Nat

/-- I8: what the byte at an address of `IN` reads as when nothing has written it since reset number `epoch`. Any value:
no claim may depend on it (assumption 3). -/
opaque Config.freeByte : Nat → Nat → Byte

/-- R33: the message `EMSG` holds when nothing has written it since reset number `epoch`, wherever that is a value of type
Message for the table. Any message: no claim may depend on it (assumption 11). -/
opaque Config.freeMessage : Nat → Message

/-- I8: what the byte at an address of `OUT` reads as when no encode has written it since reset number `epoch`. Any value:
no claim may depend on it (assumption 3). -/
opaque Config.freeOutByte : Nat → Nat → Byte

/-- Shows only that the constraints of R151 can be met; no table of a device (assumption 2). -/
def Config.witnessSlots : List Slot :=
  [⟨0x00#8, .resetLfoShapeOrder, .unit⟩, ⟨0x01#8, .resetKeyRange, .unit⟩,
   ⟨0x02#8, .lfoShapeAtIndex, .pair .lfoIndex .lfoShape⟩,
   ⟨0x03#8, .lfoPhaseAtIndex, .pair .lfoIndex .lfoPhaseOffset⟩]

/-- The configuration State.reset holds: the one slot the source gives and, for the rest, the open values wherever they
meet R151 (assumption 2). -/
def Config.board : Config :=
  ⟨paraphonicSlot ::
      (if Config.Admissible ⟨paraphonicSlot :: Config.openSlots, Config.extraFrameLen + 12⟩
       then Config.openSlots else Config.witnessSlots),
   Config.extraFrameLen + 12⟩

end Sys2Proof
end

