-- ==== Sys2Proof/Machine/Catalogue.lean ====
section
/-! DEFINITION. The two ways the table `CAT` is read (R40): by opcode (the decoder's lookup) and by variant name (the
encoder's reverse lookup, R156), and the lengths and offsets a shape gives (R63, R64). -/

namespace Sys2Proof

/-- R22: `CAT[op]`, none for an empty slot. -/
def Config.slotAt (c : Config) (op : Byte) : Option Slot :=
  c.cat.find? (fun e => e.opcode == op)

/-- R156: the slot whose variant has the name, unique by R151 item 3. -/
def Config.slotNamed (c : Config) (n : VariantName) : Option Slot :=
  c.cat.find? (fun e => e.name == n)

/-- R156: the opcode of a variant. -/
def Config.opcodeOf (c : Config) (n : VariantName) : Option Byte :=
  (c.slotNamed n).map (·.opcode)

/-- R5: the OPEN opcode parameters, each the opcode of its variant in the table. -/
def Config.opResetLfoShapeOrder (c : Config) : Option Byte := c.opcodeOf .resetLfoShapeOrder
/-- R5. -/
def Config.opResetKeyRange (c : Config) : Option Byte := c.opcodeOf .resetKeyRange
/-- R5. -/
def Config.opLfoShapeAtIndex (c : Config) : Option Byte := c.opcodeOf .lfoShapeAtIndex
/-- R5. -/
def Config.opLfoPhaseAtIndex (c : Config) : Option Byte := c.opcodeOf .lfoPhaseAtIndex

/-- R63: the bytes of an entry, its opcode and its payload (a unit payload has one placeholder byte, R114). -/
def Payload.entryLength : Payload → Nat
  | .unit => 2
  | .one _ => 2
  | .pair _ _ => 3

/-- R64: where a message's catalogue entry stands in its frame, and the entry's value. -/
def Message.entry? : Message → Option (Nat × ParameterValue)
  | .setParameter _ pv => some (7, pv)
  | .restoreParameter _ => none
  | .requestVersion _ => none
  | .reportVersion _ _ => none
  | .parameterUpdate _ pv => some (8, pv)

/-- R66: the length of a message's frame. -/
def Message.frameLength : Message → Nat
  | .setParameter _ pv => 8 + pv.payload.entryLength
  | .restoreParameter _ => 8
  | .requestVersion _ => 8
  | .reportVersion _ s => 9 + s.length
  | .parameterUpdate _ pv => 9 + pv.payload.entryLength

end Sys2Proof
end

