-- ==== Sys2Proof/WellFormed.lean ====
section
/-! DEFINITION. Which terms are values of the spec's types (R23 to R26): the domains' bounds, a parameter value's slot
and shape, the version string's bytes and length, and, for an entry row, that it is written with its own constructor. -/

namespace Sys2Proof

/-- R23: channels are 1..16. -/
def DeviceAddress.wf : DeviceAddress → Bool
  | .channel n => decide (1 ≤ n ∧ n ≤ 16)
  | .broadcast => true

/-- R24: the bounds of each domain. -/
def FieldValue.wf : FieldValue → Bool
  | .toggle _ => true
  | .blendMode _ => true
  | .oscRange _ => true
  | .keyTrackMode _ => true
  | .semitoneOffset s => decide (-12 ≤ s ∧ s ≤ 12)
  | .lfoIndex n => decide (1 ≤ n ∧ n ≤ 5)
  | .lfoShape _ => true
  | .lfoPhaseOffset d => decide (d % 45 = 0 ∧ d ≤ 315)
  | .modSource _ => true
  | .assignOutTarget _ => true
  | .envRetriggerMode _ => true
  | .midiChannel n => decide (1 ≤ n ∧ n ≤ 16)
  | .percentage l => decide (l ≤ 63)

/-- R24, R25: the bounds of each field. -/
def Payload.wf : Payload → Bool
  | .unit => true
  | .one f => f.wf
  | .pair f1 f2 => f1.wf && f2.wf

/-- R25: the name is that of a non-empty slot, and arity and field types are that slot's shape. -/
def ParameterValue.wf (pv : ParameterValue) (c : Config) : Bool :=
  ((c.slotNamed pv.name).map (·.shape) == some pv.payload.shape) && pv.payload.wf

/-- R26: every byte below 0x80, and at most MAX_FRAME_LEN − 9 of them. -/
def versionStringWf (c : Config) (s : List Byte) : Bool :=
  s.all (fun b => decide (b.toNat < 0x80)) && decide (s.length + 9 ≤ c.maxFrameLen)

/-- R26: the values of type Message. -/
def Message.wf (m : Message) (c : Config) : Bool :=
  match m with
  | .setParameter a pv => a.wf && pv.wf c
  | .restoreParameter a => a.wf
  | .requestVersion a => a.wf
  | .reportVersion a s => a.wf && versionStringWf c s
  | .parameterUpdate a pv => a.wf && pv.wf c

/-- A well-formed instruction: a frame of a value of type Message, or an entry of a value of type ParameterValue. The row
of the unnamed entries (R162) takes only unnamed variants, so each parameter value is one instruction. -/
def Instr.wf (i : Instr) (c : Config) : Bool :=
  match i with
  | .setParameter a pv => Message.wf (.setParameter a pv) c
  | .restoreParameter a => Message.wf (.restoreParameter a) c
  | .requestVersion a => Message.wf (.requestVersion a) c
  | .reportVersion a v => Message.wf (.reportVersion a v) c
  | .parameterUpdate a pv => Message.wf (.parameterUpdate a pv) c
  | .paraphonicMode t => ParameterValue.wf ⟨.paraphonicMode, .one (.toggle t)⟩ c
  | .resetLfoShapeOrder => ParameterValue.wf ⟨.resetLfoShapeOrder, .unit⟩ c
  | .resetKeyRange => ParameterValue.wf ⟨.resetKeyRange, .unit⟩ c
  | .lfoShapeAtIndex n sh => ParameterValue.wf ⟨.lfoShapeAtIndex, .pair (.lfoIndex n) (.lfoShape sh)⟩ c
  | .lfoPhaseAtIndex n d => ParameterValue.wf ⟨.lfoPhaseAtIndex, .pair (.lfoIndex n) (.lfoPhaseOffset d)⟩ c
  | .catEntry name p =>
    (match name with
      | .unnamed _ => true
      | _ => false) && ParameterValue.wf ⟨name, p⟩ c

end Sys2Proof
end

