-- ==== Sys2Proof/Decode.lean ====
section
/-! DEFINITION. The decoder as a function (R193): total on any bytes, each reader taking the bytes from the cursor on and
answering what it read with the bytes left, or the failure the spec names. After it the encoder (R194), from the same
encoding tables, and the reading of an opcode-table word. -/

namespace Sys2Proof

/-! ## Byte-level readers (R117, R181) -/

/-- R181 `ReadByte`: one unconstrained byte. -/
def readByte : List Byte → Except ErrorKind (Byte × List Byte)
  | [] => .error .truncatedInput
  | v :: rest => .ok (v, rest)

/-- R181 `Expect(c)`: one literal byte; the length test comes first. -/
def expect (c : Byte) : List Byte → Except ErrorKind (List Byte)
  | [] => .error .truncatedInput
  | v :: rest => if v = c then .ok rest else .error .structuralMismatch

/-- R182: the header's literal bytes in offset order. -/
def expectAll : List Byte → List Byte → Except ErrorKind (List Byte)
  | [], bs => .ok bs
  | c :: cs, bs => do
    let rest ← expect c bs
    expectAll cs rest

/-- R182: the header check. -/
def expectHeader (bs : List Byte) : Except ErrorKind (List Byte) := expectAll header bs

/-- R183 `DecodeAddress`. -/
def readAddress : List Byte → Except ErrorKind (DeviceAddress × List Byte)
  | [] => .error .truncatedInput
  | v :: rest =>
    match addressDecodeByte v with
    | none => .error .invalidEnumValue
    | some a => .ok (a, rest)

/-- R186 `ExpectVersion`. -/
def expectVersion (bs : List Byte) : Except ErrorKind (List Byte) := expect version bs

/-- R187 `ExpectEnd`: no byte left, then more than one byte left, then a last byte that is no terminator. -/
def expectEnd : List Byte → Except ErrorKind Unit
  | [] => .error .truncatedInput
  | [v] => if v = eox then .ok () else .error .structuralMismatch
  | _ :: _ :: _ => .error .trailingBytes

/-- R117 `ReadField(D)`. -/
def readField (d : Domain) : List Byte → Except ErrorKind (FieldValue × List Byte)
  | [] => .error .truncatedInput
  | v :: rest =>
    match d.decodeByte v with
    | none => .error .invalidEnumValue
    | some f => .ok (f, rest)

/-- R117, R114 `ReadField(Placeholder)`: any byte is consumed and discarded. -/
def readPlaceholder : List Byte → Except ErrorKind (List Byte)
  | [] => .error .truncatedInput
  | v :: rest =>
    match placeholderDecodeByte v with
    | none => .error .invalidEnumValue
    | some () => .ok rest

/-! ## Catalogue entries (R152 to R155) -/

/-- R153, R154, R155: the payload of a shape; a pair reads its index before its value. -/
def readPayload (sh : Shape) (bs : List Byte) : Except ErrorKind (Payload × List Byte) :=
  match sh with
  | .unit => do
    let rest ← readPlaceholder bs
    .ok (.unit, rest)
  | .one d => do
    let (f, rest) ← readField d bs
    .ok (.one f, rest)
  | .pair d1 d2 => do
    let (f1, rest1) ← readField d1 bs
    let (f2, rest2) ← readField d2 rest1
    .ok (.pair f1 f2, rest2)

/-- R152 `DecodeParameter`. -/
def readParameter (c : Config) : List Byte → Except ErrorKind (ParameterValue × List Byte)
  | [] => .error .truncatedInput
  | op :: rest =>
    match c.slotAt op with
    | none => .error .unknownOpcode
    | some e => do
      let (p, rest') ← readPayload e.shape rest
      .ok (⟨e.name, p⟩, rest')

/-! ## Frames (R185 to R193) -/

/-- R191 `ReadVersionString`: up to the first terminator, which must be the last byte. -/
def readVersionString : List Byte → Except ErrorKind (List Byte)
  | [] => .error .truncatedInput
  | v :: rest =>
    if v = eox then
      match rest with
      | [] => .ok []
      | _ :: _ => .error .trailingBytes
    else if 0x80 ≤ v.toNat then .error .invalidEnumValue
    else do
      let s ← readVersionString rest
      .ok (v :: s)

/-- R185: the dispatch on the message kind, with the arms of R188 to R192. -/
def decodeKind (c : Config) (a : DeviceAddress) (k : Byte) (bs : List Byte) : Except ErrorKind Message :=
  if k = kSet then do
    let (pv, rest) ← readParameter c bs
    expectEnd rest
    .ok (.setParameter a pv)
  else if k = kRestore then do
    expectEnd bs
    .ok (.restoreParameter a)
  else if k = kReqVer then do
    expectEnd bs
    .ok (.requestVersion a)
  else if k = kRepVer then do
    let rest ← expectVersion bs
    let s ← readVersionString rest
    .ok (.reportVersion a s)
  else if k = kUpdate then do
    let rest1 ← expectVersion bs
    let (pv, rest2) ← readParameter c rest1
    expectEnd rest2
    .ok (.parameterUpdate a pv)
  else .error .unknownOpcode

/-- R193 `Decode()`: the complete decode of the frame `bs`. -/
def decodeMessage (c : Config) (bs : List Byte) : Except ErrorKind Message := do
  let bs1 ← expectHeader bs
  let (a, bs2) ← readAddress bs1
  let (k, bs3) ← readByte bs2
  decodeKind c a k bs3

/-- The instruction at the cursor: the frame that the bytes up to IN_LEN make, or the catalogue entry that begins there. -/
def decode (c : Config) (f : Fetch) (bs : List Byte) : Except ErrorKind Instr :=
  match f with
  | .frame => (decodeMessage c bs).map Message.toInstr
  | .entry => (readParameter c bs).map (fun r => r.1.toInstr)

/-! ## The encoder (R156, R184, R194) -/

/-- R156: the bytes after the opcode. -/
def Payload.encode : Payload → List Byte
  | .unit => [placeholderEncode]
  | .one f => [f.encode]
  | .pair f1 f2 => [f1.encode, f2.encode]

/-- R156 `EncodeParameter`: opcode and payload. A name with no slot is no value of the type (R25): no bytes. -/
def encodeParameter (c : Config) (pv : ParameterValue) : List Byte :=
  match c.opcodeOf pv.name with
  | some op => op :: pv.payload.encode
  | none => []

/-- R194: the bytes between the address byte and the terminator. -/
def encodeBody (c : Config) : Message → List Byte
  | .setParameter _ pv => kSet :: encodeParameter c pv
  | .restoreParameter _ => [kRestore]
  | .requestVersion _ => [kReqVer]
  | .reportVersion _ s => kRepVer :: version :: s
  | .parameterUpdate _ pv => kUpdate :: version :: encodeParameter c pv

/-- R26: the address a message carries. -/
def Message.address : Message → DeviceAddress
  | .setParameter a _ => a
  | .restoreParameter a => a
  | .requestVersion a => a
  | .reportVersion a _ => a
  | .parameterUpdate a _ => a

/-- R194 `Encode(m)`: the frame of a message. -/
def encodeMessage (c : Config) (m : Message) : List Byte :=
  header ++ m.address.encode :: encodeBody c m ++ [eox]

/-- The bytes of an instruction: a frame, or an entry. -/
def encode (c : Config) (i : Instr) : List Byte :=
  match i.message?, i.parameter? with
  | some m, _ => encodeMessage c m
  | none, some pv => encodeParameter c pv
  | none, none => []

/-- Whether an instruction is a frame or an entry. -/
def Instr.fetch (i : Instr) : Fetch :=
  match i.message? with
  | some _ => .frame
  | none => .entry

/-! ## Opcode-table words -/

/-- The bytes of a table word: the first byte is the least significant. -/
def wordBytes : Nat → Nat → List Byte
  | 0, _ => []
  | n + 1, w => BitVec.ofNat 8 w :: wordBytes n (w / 256)

/-- The bytes a frame of a kind has after offset 6, beyond what a table row gives: the fixed version byte and terminator,
and for the two catalogue-bearing kinds the one entry whose opcode the source gives, with a zero field (assumption 5). -/
def frameTail (k : Byte) : List Byte :=
  if k = kSet then [0x0F#8, 0x00#8, eox]
  else if k = kRestore then [eox]
  else if k = kReqVer then [eox]
  else if k = kRepVer then [version, eox]
  else if k = kUpdate then [version, 0x0F#8, 0x00#8, eox]
  else []

/-- Which kind of instruction a table word is: only a frame begins with the start byte. -/
def tableFetch (bs : List Byte) : Fetch :=
  match bs with
  | [] => .entry
  | v :: _ => if v = sox then .frame else .entry

/-- The bytes of the instruction a table word stands for, as they lie in `IN`: an entry is followed by zero operand bytes
up to the longest entry, and a frame by the rest of its frame. -/
def tableBytes (nbits w : Nat) : List Byte :=
  let bs := wordBytes (nbits / 8) w
  match tableFetch bs with
  | .entry => bs ++ List.replicate (3 - bs.length) 0x00#8
  | .frame => bs ++ (frameTail (bs.getD 6 0x00#8)).drop (bs.length - 7)

/-- The instruction the decoder reads from the opcode-table word `w` of `nbits` bits. -/
def decodeTableWord (nbits w : Nat) : Option Instr :=
  match decode Config.board (tableFetch (wordBytes (nbits / 8) w)) (tableBytes nbits w) with
  | .ok i => some i
  | .error _ => none

end Sys2Proof
end

