-- ==== Sys2Proof/Machine/State.lean ====
section
/-! DEFINITION. The state of the block as plain data: the configuration it runs with, the registers and buffers of the
decoder (R27 to R31) and of the encoder (R32), the requests the outside world has put to its ports (assumption 4), the
reasons a step can stop, and the state after reset (R33). -/

namespace Sys2Proof.Machine

/-! ## Register values -/

/-- R3, D1: the two units that execute operations. -/
inductive Agent where
  | decoder | encoder
  deriving DecidableEq, Repr

/-- R28: which check of the decode algorithm is next. -/
inductive Phase where
  | h0 | h1 | h2 | h3 | h4 | addr | kind | ver | pop | fld1 | fld2 | plh | str | term | done
  deriving DecidableEq, Repr

/-- R31: the decoder's status register. -/
inductive DStatus where
  | idle | busy | ok | err
  deriving DecidableEq, Repr

/-- R32: the encoder's status register. -/
inductive EStatus where
  | idle | busy | done
  deriving DecidableEq, Repr

/-- R40: a byte-addressed buffer, the bytes written so far by address, in rising order. An unlisted address holds no byte
(assumption 3). -/
abbrev Memory := List Host.Cell

/-- The results whose value can be absent: `DMSG`, `DERR` (R31), `OUT` and `OUT_LEN` (R32). -/
inductive ResultReg where
  | dmsg | derr | out | outLen
  deriving DecidableEq, Repr

/-! ## The ports -/

/-- What the outside world can do to the block (D2): the transport's and the requester's writes (R263), start requests
(R196, R266), reads of results (R265), the quantizer's input (R115), reset (R260), and the passing of one byte-time of a
unit (R196) before the next request. -/
inductive Request where
  /-- The transport loads a whole frame: `IN[0 .. L-1]` and `IN_LEN` (R263). -/
  | loadFrame (bs : List Byte)
  /-- The transport writes one byte of `IN`. -/
  | writeIn (a : Nat) (b : Byte)
  /-- The transport writes `IN_LEN`. -/
  | writeInLen (n : Nat)
  /-- Start a decode operation. -/
  | startDecode
  /-- The requester writes `EMSG`. -/
  | loadMessage (m : Message)
  /-- Start an encode operation. -/
  | startEncode
  /-- Drive the quantizer's input with a percentage. -/
  | quantize (x : Rat)
  /-- Read `DSTATUS`. -/
  | readDStatus
  /-- Read `DMSG`. -/
  | readDMsg
  /-- Read `DERR`. -/
  | readDErr
  /-- Read `ESTATUS`. -/
  | readEStatus
  /-- Read `OUT[i]`. -/
  | readOut (i : Nat)
  /-- Read `OUT_LEN`. -/
  | readOutLen
  /-- Reset the block. -/
  | reset
  /-- Let a unit do one step of its byte-serial machine. -/
  | tick (u : Agent)
  deriving DecidableEq, Repr

/-- What a read or the quantizer last presented to the outside world (the model's own, assumption 4). -/
inductive PortValue where
  | dstatus (d : DStatus)
  | message (m : Message)
  /-- `DERR` as its numeric code (R230). -/
  | errorCode (n : Nat)
  | estatus (e : EStatus)
  | byte (b : Byte)
  | length (n : Nat)
  | level (l : Nat)
  deriving DecidableEq, Repr

/-! ## Stops -/

/-- Why the machine stops with a fault. Each is safe: no run goes on through it. -/
inductive Fault where
  /-- Raised by a write to `IN` or `IN_LEN` while the decoder is BUSY, or to `EMSG` while the encoder is (R264, I9). Safe. -/
  | writeWhileBusy (u : Agent)
  /-- Raised by a read of a result that does not exist: of `DMSG`, `DERR`, `OUT` or `OUT_LEN` in a status that gives it no
  value (R31, R32, R265, D26, I10), and of `OUT` at or beyond `OUT_LEN` (assumption 19). Never by a register or byte that
  merely has not been written. Safe. -/
  | noValue (r : ResultReg)
  /-- Raised by an access to `IN` or `OUT` at or beyond `MAX_FRAME_LEN`, an address the spaces do not have (R40). Safe. -/
  | noSuchAddress
  /-- Raised by the byte-serial machine where no row of R196 applies, in states no run reaches. Safe. -/
  | noRow
  deriving DecidableEq, Repr

/-- Why the model refuses to take a step. Each is safe: no run goes on through it. -/
inductive Refusal where
  /-- Raised by an arm of `exec` whose instruction has no meaning yet. Safe. -/
  | notModelled (mnemonic : String)
  /-- Raised by loading a frame, or an `IN_LEN`, longer than `MAX_FRAME_LEN` (R47, R241). Safe. -/
  | frameTooLong
  /-- Raised by a start request to a unit that is BUSY (R241, R266). Safe. -/
  | unitBusy (u : Agent)
  /-- Raised by a term that is no value of the spec's types (R25, R26): an ill-formed `EMSG` or instruction. Safe. -/
  | notAMessage
  /-- Raised by an instruction offered to a unit that is not waiting for one: no operation of its is in flight at that
  place (R196, R260). Safe. -/
  | noOperation
  /-- Raised by a quantizer input that is no integer 0..255 (R115, I4). Safe. -/
  | outsideQuantizerPort
  deriving DecidableEq, Repr

/-! ## The state -/

/-- Everything the spec gives the block, and five fields of the model's own (`turn`, `inputs`, `port`, `epoch`, `eidx`
being R156's index). An Option is the spec's own "no value" (R29, R31, R32, R33). -/
structure State where
  /-- R5, R22: `CAT` and `MAX_FRAME_LEN`, fixed for the run. -/
  cfg : Config
  /-- R30: `IN`. -/
  inBuf : Memory
  /-- R30: `IN_LEN`. -/
  inLen : Nat
  /-- R28: `PHASE`. -/
  phase : Phase
  /-- R27: `P`. -/
  p : Nat
  /-- R29: `ADDR`. -/
  addr : Option DeviceAddress
  /-- R29: `KIND`. -/
  kind : Option Byte
  /-- R29: `POP`. -/
  pop : Option Byte
  /-- R29: `FV1`. -/
  fv1 : Option FieldValue
  /-- R29: `FV2`. -/
  fv2 : Option FieldValue
  /-- R29: `VSTR`. -/
  vstr : List Byte
  /-- R31: `DSTATUS`. -/
  dstatus : DStatus
  /-- R31: `DERR`. -/
  derr : Option ErrorKind
  /-- R31: `DMSG`. -/
  dmsg : Option Message
  /-- R32: `EMSG`; where nothing has written it, an encode reads a free message (R33, assumption 11). -/
  emsg : Option Message
  /-- R32: `ESTATUS`. -/
  estatus : EStatus
  /-- R156, R194: the encoder's output index `i`. -/
  eidx : Nat
  /-- R32: `OUT`. -/
  outBuf : Memory
  /-- R32: `OUT_LEN`. -/
  outLen : Option Nat
  /-- Which unit moves first when both are BUSY (the model's own). -/
  turn : Agent
  /-- The requests not yet served, first one first (the model's own). -/
  inputs : List Request
  /-- What a read last presented (the model's own). -/
  port : Option PortValue
  /-- How many resets there have been, for the free values of what nothing has written since (the model's own). -/
  epoch : Nat
  deriving DecidableEq, Repr

/-- R33: the state after reset. The spec leaves `IN_LEN`, `IN` and `OUT` unspecified and names no index (assumption 6). -/
def State.reset : State where
  cfg := Config.board
  inBuf := []
  inLen := 0
  phase := .h0
  p := 0
  addr := none
  kind := none
  pop := none
  fv1 := none
  fv2 := none
  vstr := []
  dstatus := .idle
  derr := none
  dmsg := none
  emsg := none
  estatus := .idle
  eidx := 0
  outBuf := []
  outLen := none
  turn := .decoder
  inputs := []
  port := none
  epoch := 0

end Sys2Proof.Machine
end

