-- ==== Sys2Proof/Machine/Flags.lean ====
section
/-! DEFINITION. The block's only flags, `DSTATUS` and `ESTATUS` (R34): when a unit is BUSY (R266), when a result is visible
(R31, R32, R265), and what completion and failure set (R193, R194, R237). -/

namespace Sys2Proof.Machine

/-- Whether a unit has an operation in flight. -/
def State.unitBusy (s : State) : Agent → Bool
  | .decoder => s.dstatus == .busy
  | .encoder => s.estatus == .busy

/-- R31: `DMSG` as the outside sees it, a value only while `DSTATUS = OK`. -/
def State.visibleDMsg (s : State) : Option Message :=
  if s.dstatus = .ok then s.dmsg else none

/-- R31: `DERR` as the outside sees it, a value only while `DSTATUS = ERR`. -/
def State.visibleDErr (s : State) : Option ErrorKind :=
  if s.dstatus = .err then s.derr else none

/-- R32: `OUT_LEN` as the outside sees it, a value only while `ESTATUS = DONE`. -/
def State.visibleOutLen (s : State) : Option Nat :=
  if s.estatus = .done then s.outLen else none

/-- R193: the status of a decode that returned a message. -/
def State.setOk (s : State) (m : Message) : State :=
  { s with dmsg := some m, dstatus := .ok }

/-- R193, R237: the status of a decode that raised a failure. -/
def State.setErr (s : State) (e : ErrorKind) : State :=
  { s with derr := some e, dstatus := .err }

/-- R194: the status of an encode that has emitted its last byte. -/
def State.setDone (s : State) : State :=
  { s with outLen := some s.eidx, estatus := .done }

end Sys2Proof.Machine
end

