-- ==== Sys2Proof/Machine/Memory.lean ====
section
/-! DEFINITION. The byte buffers `IN` and `OUT` (R40, R43): reading and writing one byte, writing a run of bytes in rising
index order (R41), and the canonical form (addresses strictly rising). -/

namespace Sys2Proof.Machine

/-- R43: the byte at an address; none where nothing has been written. -/
def Memory.read (m : Memory) (a : Nat) : Option Byte :=
  match m with
  | [] => none
  | (x, b) :: rest => if x = a then some b else Memory.read rest a

/-- R44: store one byte, keeping the addresses in strictly rising order. -/
def Memory.write (m : Memory) (a : Nat) (v : Byte) : Memory :=
  match m with
  | [] => [(a, v)]
  | (x, b) :: rest =>
    if a < x then (a, v) :: (x, b) :: rest
    else if a = x then (a, v) :: rest
    else (x, b) :: Memory.write rest a v

/-- R41: store bytes at rising addresses from `a` on. -/
def Memory.writeAll (m : Memory) (a : Nat) (bs : List Byte) : Memory :=
  match bs with
  | [] => m
  | v :: rest => Memory.writeAll (Memory.write m a v) (a + 1) rest

/-- The canonical form: addresses strictly rising. -/
abbrev Memory.wf (m : Memory) : Prop := (m.map (·.1)).Pairwise (· < ·)

/-- R40: every address of the buffer lies in a space of `n` bytes. -/
abbrev Memory.within (m : Memory) (n : Nat) : Prop := ∀ cell ∈ m, cell.1 < n

end Sys2Proof.Machine
end

