-- ==== Sys2Proof/Machine/Ops.lean ====
section
/-! DEFINITION. The named operations the instructions share: reading `IN` at the cursor (R8, R30, R44), capturing fields
(R29), accepting a message, taking a failure (R237) and the start that follows it (R239, R196), and emitting bytes to
`OUT` (R156, R194). -/

namespace Sys2Proof.Machine

/-- The outcomes of a step of this block. -/
abbrev Result := Host.Outcome State Fault Refusal

/-- Go on from a next state; a stop stays a stop. -/
def andThen (r : Result) (f : State → Result) : Result :=
  match r with
  | .next s => f s
  | .fault e => .fault e
  | .refused e => .refused e

/-! ## Reading the frame -/

/-- R8 `MemRead(a, 1)`: the byte of `IN` at an address, a free value where nothing has been written (I8). -/
def State.inByte (s : State) (a : Nat) : Byte :=
  match s.inBuf.read a with
  | some b => b
  | none => Config.freeByte s.epoch a

/-- R181: the byte at the cursor, none where the frame has ended (`P ≥ IN_LEN`). -/
def State.cursor (s : State) : Option Byte :=
  if s.p < s.inLen then some (s.inByte s.p) else none

/-- R30: `n` bytes of `IN` from an address on. -/
def State.bytesFrom (s : State) (a : Nat) : Nat → List Byte
  | 0 => []
  | n + 1 => s.inByte a :: s.bytesFrom (a + 1) n

/-- R30: the frame `IN[0 .. IN_LEN-1]`. -/
def State.frame (s : State) : List Byte := s.bytesFrom 0 s.inLen

/-- The bytes of the frame from the cursor on. -/
def State.remaining (s : State) : List Byte := s.bytesFrom s.p (s.inLen - s.p)

/-! ## Capturing fields -/

/-- R27: `n` bytes consumed. -/
def State.advance (s : State) (n : Nat) : State := { s with p := s.p + n }

/-- R196: the phase that is next. -/
def State.goto (s : State) (ph : Phase) : State := { s with phase := ph }

/-- R196: `ADDR <- a`. -/
def State.captureAddr (s : State) (a : DeviceAddress) : State := { s with addr := some a }

/-- R196: `KIND <- k`. -/
def State.captureKind (s : State) (k : Byte) : State := { s with kind := some k }

/-- R196: `POP <- op`. -/
def State.capturePop (s : State) (op : Byte) : State := { s with pop := some op }

/-- R196: `FV1 <- f`. -/
def State.captureFv1 (s : State) (f : FieldValue) : State := { s with fv1 := some f }

/-- R196: `FV2 <- f`. -/
def State.captureFv2 (s : State) (f : FieldValue) : State := { s with fv2 := some f }

/-- R196: `VSTR <- VSTR ++ bs`. -/
def State.captureString (s : State) (bs : List Byte) : State := { s with vstr := s.vstr ++ bs }

/-- R152: the field values of a payload, in the order they are read. -/
def State.capturePayload (s : State) : Payload → State
  | .unit => s
  | .one f => s.captureFv1 f
  | .pair f1 f2 => (s.captureFv1 f1).captureFv2 f2

/-- R61, R196: the header, the address and the kind, seven bytes consumed. -/
def State.takePrefix (s : State) (a : DeviceAddress) (k : Byte) : State :=
  ((s.captureAddr a).captureKind k).advance 7

/-- R186: the version byte consumed. -/
def State.takeVersion (s : State) : State := s.advance 1

/-- R152, R196: a catalogue entry consumed: its opcode, and its field values or placeholder. -/
def State.takeEntry (s : State) (pv : ParameterValue) : State :=
  (({ s with pop := s.cfg.opcodeOf pv.name } : State).capturePayload pv.payload).advance pv.payload.entryLength

/-- R191, R196: the version string consumed. -/
def State.takeString (s : State) (bs : List Byte) : State := (s.captureString bs).advance bs.length

/-! ## Ending a decode operation -/

/-- R196 "accept m": the terminator consumed, the message presented. -/
def State.accept (s : State) (m : Message) : State := ((s.setOk m).advance 1).goto .done

/-- R237 "fail E", the one way an exception is taken: the kind recorded, the status ERR, the phase DONE, all else as it
was. There is no handler, no vector and no saved cursor. -/
def State.raise (s : State) (e : ErrorKind) : State := (s.setErr e).goto .done

/-- R196, R239: what starting a decode operation sets; it stands for a return from a failure, which has no operation of
its own. -/
def State.beginDecode (s : State) : State :=
  { s with
    phase := .h0, p := 0, vstr := [], addr := none, kind := none, pop := none, fv1 := none, fv2 := none
    dmsg := none, derr := none, dstatus := .busy, turn := .decoder }

/-! ## Emitting bytes -/

/-- R33, R26: what `EMSG` holds where nothing has written it since reset number `epoch`: a free value of type Message. The
guard only keeps it in the type, any message of which it can be (assumption 11). -/
def unwrittenMessage (c : Config) (epoch : Nat) : Message :=
  if (Config.freeMessage epoch).wf c then Config.freeMessage epoch else .requestVersion .broadcast

/-- R32, R194: the message an encode operation reads from `EMSG`. -/
def State.messageIn (s : State) : Message :=
  match s.emsg with
  | some m => m
  | none => unwrittenMessage s.cfg s.epoch

/-- R32: the byte of `OUT` at an address, a free value where no encode has written it (I8, assumption 3). -/
def State.outByte (s : State) (a : Nat) : Byte :=
  match s.outBuf.read a with
  | some b => b
  | none => Config.freeOutByte s.epoch a

/-- R194: what starting an encode operation sets. -/
def State.beginEncode (s : State) : State :=
  { s with eidx := 0, outLen := none, estatus := .busy, turn := .encoder }

/-- R156, R194 "emit": bytes stored at the output index in rising order, the index moved past them. `OUT` has
MAX_FRAME_LEN bytes (R40). -/
def emitBytes (bs : List Byte) (s : State) : Result :=
  if s.eidx + bs.length ≤ s.cfg.maxFrameLen then
    .next { s with outBuf := s.outBuf.writeAll s.eidx bs, eidx := s.eidx + bs.length }
  else .fault .noSuchAddress

/-! ## Running an instruction in a unit -/

/-- A frame instruction in the unit whose turn it is: the decoder, started and with its whole frame ahead, takes it by
`arm`; the encoder, started, emits the frame's bytes and is done. -/
def runFrame (m : Message) (arm : State → State) (bytes : List Byte) (s : State) : Result :=
  if m.wf s.cfg then
    match s.turn with
    | .decoder => if s.dstatus = .busy ∧ s.phase = .h0 then .next (arm s) else .refused .noOperation
    | .encoder =>
      if s.estatus = .busy ∧ s.eidx = 0 then andThen (emitBytes bytes s) (fun t => .next t.setDone)
      else .refused .noOperation
  else .refused .notAMessage

/-- An entry instruction in the unit whose turn it is: the decoder, with the entry at its cursor, takes it and expects the
terminator next; the encoder, started, emits the entry's bytes at its output index. -/
def runEntry (pv : ParameterValue) (s : State) : Result :=
  if pv.wf s.cfg then
    match s.turn with
    | .decoder =>
      if s.dstatus = .busy ∧ s.phase = .pop then .next ((s.takeEntry pv).goto .term) else .refused .noOperation
    | .encoder =>
      if s.estatus = .busy then emitBytes (encodeParameter s.cfg pv) s else .refused .noOperation
  else .refused .notAMessage

end Sys2Proof.Machine
end

