-- ==== Sys2Proof/Machine/Decoder.lean ====
section
/-! DEFINITION. The byte-serial decoder (R196): one row of its table for each step, the rows of a phase in one definition,
and the running of rows until the operation ends. Where the table has no row the machine is stuck, by name. -/

namespace Sys2Proof.Machine

/-- R196 rows `H0`..`H4`. -/
def rowHeader (c : Byte) (nxt : Phase) (s : State) : Result :=
  match s.cursor with
  | none => .next (s.raise .truncatedInput)
  | some v => if v = c then .next ((s.advance 1).goto nxt) else .next (s.raise .structuralMismatch)

/-- R196 rows `ADDR`. -/
def rowAddr (s : State) : Result :=
  match s.cursor with
  | none => .next (s.raise .truncatedInput)
  | some v =>
    match addressDecodeByte v with
    | some a => .next (((s.captureAddr a).advance 1).goto .kind)
    | none => .next (s.raise .invalidEnumValue)

/-- R196: the phase after a kind byte. -/
def afterKind (k : Byte) : Option Phase :=
  if k = kSet then some .pop
  else if k = kRestore then some .term
  else if k = kReqVer then some .term
  else if k = kRepVer then some .ver
  else if k = kUpdate then some .ver
  else none

/-- R196 rows `KIND`. -/
def rowKind (s : State) : Result :=
  match s.cursor with
  | none => .next (s.raise .truncatedInput)
  | some v =>
    match afterKind v with
    | some ph => .next (((s.captureKind v).advance 1).goto ph)
    | none => .next (s.raise .unknownOpcode)

/-- R196: the phase after the version byte. -/
def afterVersion (k : Option Byte) : Option Phase :=
  if k = some kRepVer then some .str
  else if k = some kUpdate then some .pop
  else none

/-- R196 rows `VER`. -/
def rowVer (s : State) : Result :=
  match s.cursor with
  | none => .next (s.raise .truncatedInput)
  | some v =>
    if v = version then
      match afterVersion s.kind with
      | some ph => .next ((s.advance 1).goto ph)
      | none => .fault .noRow
    else .next (s.raise .structuralMismatch)

/-- R196: the phase after a catalogue opcode. -/
def afterOpcode : Shape → Phase
  | .unit => .plh
  | .one _ => .fld1
  | .pair _ _ => .fld1

/-- R196 rows `POP`. -/
def rowPop (s : State) : Result :=
  match s.cursor with
  | none => .next (s.raise .truncatedInput)
  | some v =>
    match s.cfg.slotAt v with
    | none => .next (s.raise .unknownOpcode)
    | some e => .next (((s.capturePop v).advance 1).goto (afterOpcode e.shape))

/-- R196 rows `PLH`: any byte. -/
def rowPlh (s : State) : Result :=
  match s.cursor with
  | none => .next (s.raise .truncatedInput)
  | some v =>
    match placeholderDecodeByte v with
    | none => .next (s.raise .invalidEnumValue)
    | some () => .next ((s.advance 1).goto .term)

/-- R196: `CAT[POP]`. -/
def State.popSlot (s : State) : Option Slot :=
  match s.pop with
  | some op => s.cfg.slotAt op
  | none => none

/-- R196: the domain of the first field and the phase after it. -/
def firstField : Shape → Option (Domain × Phase)
  | .unit => none
  | .one d => some (d, .term)
  | .pair d1 _ => some (d1, .fld2)

/-- R196: the domain of the second field. -/
def secondField : Shape → Option Domain
  | .unit => none
  | .one _ => none
  | .pair _ d2 => some d2

/-- R196 rows `FLD1`. -/
def rowFld1 (s : State) : Result :=
  match s.cursor with
  | none => .next (s.raise .truncatedInput)
  | some v =>
    match s.popSlot with
    | none => .fault .noRow
    | some e =>
      match firstField e.shape with
      | none => .fault .noRow
      | some (d, nxt) =>
        match d.decodeByte v with
        | none => .next (s.raise .invalidEnumValue)
        | some f => .next (((s.captureFv1 f).advance 1).goto nxt)

/-- R196 rows `FLD2`. -/
def rowFld2 (s : State) : Result :=
  match s.cursor with
  | none => .next (s.raise .truncatedInput)
  | some v =>
    match s.popSlot with
    | none => .fault .noRow
    | some e =>
      match secondField e.shape with
      | none => .fault .noRow
      | some d =>
        match d.decodeByte v with
        | none => .next (s.raise .invalidEnumValue)
        | some f => .next (((s.captureFv2 f).advance 1).goto .term)

/-- R196 rows `STR`. -/
def rowStr (s : State) : Result :=
  match s.cursor with
  | none => .next (s.raise .truncatedInput)
  | some v =>
    if v = eox then
      if s.p + 1 < s.inLen then .next (s.raise .trailingBytes)
      else
        match s.addr with
        | some a => .next (s.accept (.reportVersion a s.vstr))
        | none => .fault .noRow
    else if 0x80 ≤ v.toNat then .next (s.raise .invalidEnumValue)
    else .next ((s.captureString [v]).advance 1)

/-- R196: the payload that the captures hold for a shape. -/
def State.capturedPayload (s : State) : Shape → Option Payload
  | .unit => some .unit
  | .one _ =>
    match s.fv1 with
    | some f => some (.one f)
    | none => none
  | .pair _ _ =>
    match s.fv1, s.fv2 with
    | some f1, some f2 => some (.pair f1 f2)
    | _, _ => none

/-- R196: `V(CAT[POP].name [, FV1 [, FV2]])`. -/
def State.capturedParameter (s : State) : Option ParameterValue :=
  match s.popSlot with
  | none => none
  | some e =>
    match s.capturedPayload e.shape with
    | some p => some ⟨e.name, p⟩
    | none => none

/-- R196: the message built from `KIND`, `ADDR` and, for the two catalogue-bearing kinds, the captured parameter. -/
def State.capturedMessage (s : State) : Option Message :=
  match s.addr, s.kind with
  | some a, some k =>
    if k = kSet then s.capturedParameter.map (.setParameter a)
    else if k = kRestore then some (.restoreParameter a)
    else if k = kReqVer then some (.requestVersion a)
    else if k = kUpdate then s.capturedParameter.map (.parameterUpdate a)
    else none
  | _, _ => none

/-- R196 rows `TERM`. -/
def rowTerm (s : State) : Result :=
  match s.cursor with
  | none => .next (s.raise .truncatedInput)
  | some v =>
    if s.p + 1 < s.inLen then .next (s.raise .trailingBytes)
    else if v = eox then
      match s.capturedMessage with
      | some m => .next (s.accept m)
      | none => .fault .noRow
    else .next (s.raise .structuralMismatch)

/-- R196: the row of the phase the decoder is in. -/
def row (s : State) : Result :=
  match s.phase with
  | .h0 => rowHeader sox .h1 s
  | .h1 => rowHeader mfr0 .h2 s
  | .h2 => rowHeader mfr1 .h3 s
  | .h3 => rowHeader mfr2 .h4 s
  | .h4 => rowHeader devKind .addr s
  | .addr => rowAddr s
  | .kind => rowKind s
  | .ver => rowVer s
  | .pop => rowPop s
  | .fld1 => rowFld1 s
  | .fld2 => rowFld2 s
  | .plh => rowPlh s
  | .str => rowStr s
  | .term => rowTerm s
  | .done => .next s

/-- R196: one step of the decoder; no step unless `DSTATUS = BUSY`. -/
def tickDecoder (s : State) : Result :=
  if s.dstatus = .busy then row s else .next s

/-- R196: at most `n` steps of the decoder, until its operation has ended. -/
def runRows : Nat → State → Result
  | 0, s => .next s
  | n + 1, s => if s.dstatus = .busy then andThen (row s) (runRows n) else .next s

end Sys2Proof.Machine
end

