-- ==== Sys2Proof/Machine/Entries.lean ====
section
/-! DEFINITION. The meanings of the catalogue entries: the five named ones (R157 to R161) and the unnamed ones, which
behave by their shape (R162, R153 to R155). -/

namespace Sys2Proof.Machine

/-- R157. -/
def execParaphonicMode (t : Toggle) (s : State) : Result :=
  runEntry ⟨.paraphonicMode, .one (.toggle t)⟩ s

/-- R158. -/
def execResetLfoShapeOrder (s : State) : Result :=
  runEntry ⟨.resetLfoShapeOrder, .unit⟩ s

/-- R159. -/
def execResetKeyRange (s : State) : Result :=
  runEntry ⟨.resetKeyRange, .unit⟩ s

/-- R160. -/
def execLfoShapeAtIndex (n : Nat) (sh : LfoShape) (s : State) : Result :=
  runEntry ⟨.lfoShapeAtIndex, .pair (.lfoIndex n) (.lfoShape sh)⟩ s

/-- R161. -/
def execLfoPhaseAtIndex (n : Nat) (degrees : Nat) (s : State) : Result :=
  runEntry ⟨.lfoPhaseAtIndex, .pair (.lfoIndex n) (.lfoPhaseOffset degrees)⟩ s

/-- R162. -/
def execCatEntry (name : VariantName) (p : Payload) (s : State) : Result :=
  runEntry ⟨name, p⟩ s

end Sys2Proof.Machine
end

