-- ==== Sys2Proof/Machine/Messages.lean ====
section
/-! DEFINITION. The meanings of the five frames (R188 to R192), each by its decode arm and its encode arm. -/

namespace Sys2Proof.Machine

/-- R188. -/
def execSetParameter (a : DeviceAddress) (pv : ParameterValue) (s : State) : Result :=
  runFrame (.setParameter a pv)
    (fun t => ((t.takePrefix a kSet).takeEntry pv).accept (.setParameter a pv))
    (header ++ a.encode :: kSet :: encodeParameter s.cfg pv ++ [eox]) s

/-- R189. -/
def execRestoreParameter (a : DeviceAddress) (s : State) : Result :=
  runFrame (.restoreParameter a)
    (fun t => (t.takePrefix a kRestore).accept (.restoreParameter a))
    (header ++ a.encode :: [kRestore] ++ [eox]) s

/-- R190. -/
def execRequestVersion (a : DeviceAddress) (s : State) : Result :=
  runFrame (.requestVersion a)
    (fun t => (t.takePrefix a kReqVer).accept (.requestVersion a))
    (header ++ a.encode :: [kReqVer] ++ [eox]) s

/-- R191. -/
def execReportVersion (a : DeviceAddress) (v : List Byte) (s : State) : Result :=
  runFrame (.reportVersion a v)
    (fun t => (((t.takePrefix a kRepVer).takeVersion).takeString v).accept (.reportVersion a v))
    (header ++ a.encode :: kRepVer :: version :: v ++ [eox]) s

/-- R192. -/
def execParameterUpdate (a : DeviceAddress) (pv : ParameterValue) (s : State) : Result :=
  runFrame (.parameterUpdate a pv)
    (fun t => (((t.takePrefix a kUpdate).takeVersion).takeEntry pv).accept (.parameterUpdate a pv))
    (header ++ a.encode :: kUpdate :: version :: encodeParameter s.cfg pv ++ [eox]) s

end Sys2Proof.Machine
end

