-- ==== Sys2Proof/Machine/Dispatch.lean ====
section
/-! DEFINITION. One arm for each row of the opcode table. -/

namespace Sys2Proof.Machine

/-- What an instruction does in a state. -/
def exec (i : Instr) (s : State) : Host.Outcome State Fault Refusal :=
  match i with
  | .setParameter a pv => Sys2Proof.Machine.execSetParameter a pv s
  | .restoreParameter a => Sys2Proof.Machine.execRestoreParameter a s
  | .requestVersion a => Sys2Proof.Machine.execRequestVersion a s
  | .reportVersion a v => Sys2Proof.Machine.execReportVersion a v s
  | .parameterUpdate a pv => Sys2Proof.Machine.execParameterUpdate a pv s
  | .paraphonicMode t => Sys2Proof.Machine.execParaphonicMode t s
  | .resetLfoShapeOrder => Sys2Proof.Machine.execResetLfoShapeOrder s
  | .resetKeyRange => Sys2Proof.Machine.execResetKeyRange s
  | .lfoShapeAtIndex n sh => Sys2Proof.Machine.execLfoShapeAtIndex n sh s
  | .lfoPhaseAtIndex n degrees => Sys2Proof.Machine.execLfoPhaseAtIndex n degrees s
  | .catEntry name p => Sys2Proof.Machine.execCatEntry name p s

end Sys2Proof.Machine
end

