-- ==== Sys2Proof/Machine/Encoder.lean ====
section
/-! DEFINITION. The encoder one emit at a time (R194): the byte of `EMSG`'s frame at the output index goes to `OUT`, and
the last one completes the operation. -/

namespace Sys2Proof.Machine

/-- R194: the status after an emit, DONE once the whole frame has been emitted. -/
def doneAfter (len : Nat) (s : State) : State := if len ≤ s.eidx then s.setDone else s

/-- R194: one emit. -/
def emitNext (s : State) : Result :=
  match (encodeMessage s.cfg s.messageIn)[s.eidx]? with
  | none => .fault .noRow
  | some v => andThen (emitBytes [v] s) (fun t => .next (doneAfter (encodeMessage s.cfg s.messageIn).length t))

/-- R194: one step of the encoder; no step unless `ESTATUS = BUSY`. -/
def tickEncoder (s : State) : Result :=
  if s.estatus = .busy then emitNext s else .next s

/-- R194: at most `n` emits, until the operation has ended. -/
def runEmits : Nat → State → Result
  | 0, s => .next s
  | n + 1, s => if s.estatus = .busy then andThen (emitNext s) (runEmits n) else .next s

end Sys2Proof.Machine
end

