-- ==== Sys2Proof/Machine/Fetch.lean ====
section
/-! DEFINITION. What the block does by itself when no request is waiting (assumption 4): the unit whose turn it is fetches
the instruction at its cursor or output index and runs it. Between instructions a unit does one byte-serial step. -/

namespace Sys2Proof.Machine

/-- The unit that moves: the one whose turn it is if it is BUSY, else the other if that is BUSY, else none (R260: the block
waits for a start request). The order cannot be seen (R48). -/
def State.mover (s : State) : Option Agent :=
  match s.turn with
  | .decoder =>
    if s.unitBusy .decoder then some .decoder else if s.unitBusy .encoder then some .encoder else none
  | .encoder =>
    if s.unitBusy .encoder then some .encoder else if s.unitBusy .decoder then some .decoder else none

/-- Which instruction begins at the decoder's cursor: a frame where the operation starts, an entry where an opcode is
expected, none in between. -/
def State.fetchKind (s : State) : Option Fetch :=
  match s.phase with
  | .h0 => some .frame
  | .pop => some .entry
  | .h1 => none
  | .h2 => none
  | .h3 => none
  | .h4 => none
  | .addr => none
  | .kind => none
  | .ver => none
  | .fld1 => none
  | .fld2 => none
  | .plh => none
  | .str => none
  | .term => none
  | .done => none

/-- The decoder's own move: run the instruction at the cursor; where the bytes are none, its rows run to the failure they
raise (R195, R236, R237); between instructions, one row. -/
def moveDecoder (s : State) : Result :=
  match s.fetchKind with
  | some f =>
    match decode s.cfg f s.remaining with
    | .ok i => Sys2Proof.Machine.exec i s
    | .error _ => runRows (s.inLen + 1 - s.p) s
  | none => row s

/-- The encoder's own move: run the frame instruction of `EMSG` at index 0, its entry instruction where the entry begins,
and one emit in between. -/
def moveEncoder (s : State) : Result :=
  if s.eidx = 0 then Sys2Proof.Machine.exec s.messageIn.toInstr s
  else
    match s.messageIn.entry? with
    | none => emitNext s
    | some (at', pv) => if s.eidx = at' then Sys2Proof.Machine.exec pv.toInstr s else emitNext s

/-- The block's own move. -/
def moveBlock (s : State) : Result :=
  match s.mover with
  | none => .next s
  | some .decoder => moveDecoder { s with turn := .decoder }
  | some .encoder => moveEncoder { s with turn := .encoder }

/-- A decode operation on the frame `bs`, loaded by the transport and just started (R263, R196). -/
def State.withFrame (s : State) (bs : List Byte) : State :=
  { s.beginDecode with inBuf := s.inBuf.writeAll 0 bs, inLen := bs.length, inputs := [] }

/-- A decode operation that has consumed the seven bytes of a SetParameter frame to channel 1, with the entry `bs` and a
terminator ahead (R64). -/
def State.withEntry (s : State) (bs : List Byte) : State :=
  let t := s.withFrame (header ++ [0x00#8, kSet] ++ bs ++ [eox])
  (t.takePrefix (.channel 1) kSet).goto .pop

end Sys2Proof.Machine
end

