-- ==== Sys2Proof/Machine/Ports.lean ====
section
/-! DEFINITION. What each request of the outside world does at the block's ports (D2): the writes with their hazard (R263,
R264), the start requests (R196, R266), the reads (R31, R32, R265), the quantizer (R115), reset (R260, R261) and the
passing of one step of a unit (R196). -/

namespace Sys2Proof.Machine

/-- R263, R264, R47: the transport loads a whole frame. Where the decoder is BUSY and the frame is too long as well, the
spec gives no order of the fault (R264) and the refusal (R47, R241): the model tests BUSY first (assumption 20). What `IN`
holds beyond the new `IN_LEN` the spec leaves open (I8): the model keeps what was there before (assumption 21). -/
def loadFrame (bs : List Byte) (s : State) : Result :=
  if s.dstatus = .busy then .fault (.writeWhileBusy .decoder)
  else if s.cfg.maxFrameLen < bs.length then .refused .frameTooLong
  else .next { s with inBuf := s.inBuf.writeAll 0 bs, inLen := bs.length }

/-- R263, R264: the transport writes one byte of `IN`. BUSY is tested before the address (assumption 20). -/
def writeIn (a : Nat) (b : Byte) (s : State) : Result :=
  if s.dstatus = .busy then .fault (.writeWhileBusy .decoder)
  else if s.cfg.maxFrameLen ≤ a then .fault .noSuchAddress
  else .next { s with inBuf := s.inBuf.write a b }

/-- R263, R264, R47: the transport writes `IN_LEN`. BUSY is tested before the length, as in `loadFrame`
(assumption 20). A greater length takes in the bytes `IN` holds beyond the old one, which the model has kept
(assumption 21). -/
def writeInLen (n : Nat) (s : State) : Result :=
  if s.dstatus = .busy then .fault (.writeWhileBusy .decoder)
  else if s.cfg.maxFrameLen < n then .refused .frameTooLong
  else .next { s with inLen := n }

/-- R196, R239, R266: a decode starts from IDLE, OK or ERR alike, and never from BUSY. -/
def startDecode (s : State) : Result :=
  if s.dstatus = .busy then .refused (.unitBusy .decoder) else .next s.beginDecode

/-- R263, R264, R26: the requester writes `EMSG`. BUSY is tested before the type (assumption 20). -/
def loadMessage (m : Message) (s : State) : Result :=
  if s.estatus = .busy then .fault (.writeWhileBusy .encoder)
  else if m.wf s.cfg then .next { s with emsg := some m }
  else .refused .notAMessage

/-- R194, R263, R266: an encode starts from IDLE or DONE, and never from BUSY. Where nothing has written `EMSG` it encodes
what `EMSG` then holds, a free message (assumption 11). -/
def startEncode (s : State) : Result :=
  if s.estatus = .busy then .refused (.unitBusy .encoder) else .next s.beginEncode

/-- R115, I4: the quantizer is combinational, total on the integers 0..255, and its port takes nothing else. -/
def quantize (x : Rat) (s : State) : Result :=
  if x.den = 1 ∧ 0 ≤ x.num ∧ x.num ≤ 255 then .next { s with port := some (.level (pctToLevel x.num.toNat)) }
  else .refused .outsideQuantizerPort

/-- R31, R265. -/
def readDMsg (s : State) : Result :=
  match s.visibleDMsg with
  | some m => .next { s with port := some (.message m) }
  | none => .fault (.noValue .dmsg)

/-- R31, R265, R230. -/
def readDErr (s : State) : Result :=
  match s.visibleDErr with
  | some e => .next { s with port := some (.errorCode e.code) }
  | none => .fault (.noValue .derr)

/-- R32, R265: `OUT[i]` holds a value for `i < OUT_LEN` while `ESTATUS = DONE`. For `OUT_LEN ≤ i` while DONE the spec
says nothing, even where a longer frame was encoded before: the model faults, as on any result that does not exist
(assumption 19). The address is tested before the status (assumption 20). -/
def readOut (i : Nat) (s : State) : Result :=
  if s.cfg.maxFrameLen ≤ i then .fault .noSuchAddress
  else
    match s.visibleOutLen with
    | none => .fault (.noValue .out)
    | some n =>
      if i < n then .next { s with port := some (.byte (s.outByte i)) } else .fault (.noValue .out)

/-- R32, R265. -/
def readOutLen (s : State) : Result :=
  match s.visibleOutLen with
  | some n => .next { s with port := some (.length n) }
  | none => .fault (.noValue .outLen)

/-- R260, R261: reset at any time. The configuration is untouched, an operation in flight is abandoned, and what `IN` held
is forgotten (I8). -/
def State.resetBlock (s : State) : State :=
  { State.reset with cfg := s.cfg, inputs := s.inputs, epoch := s.epoch + 1 }

/-- R196, R194: one step of a unit. -/
def tick (u : Agent) (s : State) : Result :=
  match u with
  | .decoder => tickDecoder s
  | .encoder => tickEncoder s

/-- What a request does. -/
def serve (r : Request) (s : State) : Result :=
  match r with
  | .loadFrame bs => loadFrame bs s
  | .writeIn a b => writeIn a b s
  | .writeInLen n => writeInLen n s
  | .startDecode => startDecode s
  | .loadMessage m => loadMessage m s
  | .startEncode => startEncode s
  | .quantize x => quantize x s
  | .readDStatus => .next { s with port := some (.dstatus s.dstatus) }
  | .readDMsg => readDMsg s
  | .readDErr => readDErr s
  | .readEStatus => .next { s with port := some (.estatus s.estatus) }
  | .readOut i => readOut i s
  | .readOutLen => readOutLen s
  | .reset => .next s.resetBlock
  | .tick u => tick u s

end Sys2Proof.Machine
end

