-- ==== Sys2Proof/Machine/Step.lean ====
section
/-! DEFINITION. One step of the machine: the next request if one waits at the ports, else the block's own move. -/

namespace Sys2Proof.Machine

/-- One step. -/
def step (s : State) : Host.Outcome State Fault Refusal :=
  match s.inputs with
  | r :: rest => serve r { s with inputs := rest }
  | [] => moveBlock s

/-- The state whose next step runs the instruction of an opcode-table word (assumption 5). -/
def State.withFetchWord (s : State) (nbits w : Nat) : State :=
  match tableFetch (tableBytes nbits w) with
  | .frame => s.withFrame (tableBytes nbits w)
  | .entry => s.withEntry (tableBytes nbits w)

end Sys2Proof.Machine
end

