-- ==== Sys2Proof/Safety.lean ====
section
/-! DEFINITION. What holds of every state a run reaches, said part by part, and what the statements speak in: the part of
the state each unit owns, and a freshly started decoder. -/

namespace Sys2Proof.Machine

/-! ## The invariant -/

/-- R30, R40, R47: the buffers are in canonical form, inside their spaces, and the frame fits. -/
def State.BuffersOk (s : State) : Prop :=
  Memory.wf s.inBuf ∧ Memory.wf s.outBuf ∧ Memory.within s.inBuf s.cfg.maxFrameLen ∧
    Memory.within s.outBuf s.cfg.maxFrameLen ∧ s.inLen ≤ s.cfg.maxFrameLen

/-- R31, R45: `DMSG` holds a value exactly while OK, a value of type Message (R26), and `DERR` exactly while ERR. -/
def State.ResultsOk (s : State) : Prop :=
  (s.dmsg.isSome ↔ s.dstatus = .ok) ∧ (s.derr.isSome ↔ s.dstatus = .err) ∧ ∀ m, s.dmsg = some m → m.wf s.cfg = true

/-- R28, R33, R196: the phase agrees with the status. -/
def State.PhaseOk (s : State) : Prop :=
  (s.dstatus = .idle → s.phase = .h0) ∧ (s.dstatus = .busy → s.phase ≠ .done) ∧
    (s.dstatus = .ok → s.phase = .done) ∧ (s.dstatus = .err → s.phase = .done)

/-- R27: the cursor's range. -/
def State.CursorOk (s : State) : Prop :=
  s.p ≤ s.cfg.maxFrameLen ∧ (s.dstatus = .busy → s.p ≤ s.inLen)

/-- R196: no capture register has been written. -/
def State.NoCaptures (s : State) : Prop :=
  s.addr = none ∧ s.kind = none ∧ s.pop = none ∧ s.fv1 = none ∧ s.fv2 = none ∧ s.vstr = []

/-- R23: `ADDR` holds a device address. -/
def State.AddrHeld (s : State) : Prop := ∃ a, s.addr = some a ∧ a.wf = true

/-- R64: the offset of the entry's opcode in the frame in flight. -/
def State.EntryAt (s : State) (at' : Nat) : Prop :=
  (s.kind = some kSet ∧ at' = 7) ∨ (s.kind = some kUpdate ∧ at' = 8)

/-- R29, R64, R196: in each phase of an operation in flight, what has been captured and where the cursor stands. -/
def State.CapturesOk (s : State) : Prop :=
  match s.phase with
  | .h0 => s.NoCaptures ∧ s.p = 0
  | .h1 => s.NoCaptures ∧ s.p = 1
  | .h2 => s.NoCaptures ∧ s.p = 2
  | .h3 => s.NoCaptures ∧ s.p = 3
  | .h4 => s.NoCaptures ∧ s.p = 4
  | .addr => s.NoCaptures ∧ s.p = 5
  | .kind => s.AddrHeld ∧ s.vstr = [] ∧ s.p = 6
  | .ver => s.AddrHeld ∧ s.vstr = [] ∧ (s.kind = some kRepVer ∨ s.kind = some kUpdate) ∧ s.p = 7
  | .pop => s.AddrHeld ∧ s.EntryAt s.p
  | .plh => s.AddrHeld ∧ ∃ at', s.EntryAt at' ∧ s.p = at' + 1 ∧ ∃ e, s.popSlot = some e ∧ e.shape = .unit
  | .fld1 => s.AddrHeld ∧ ∃ at', s.EntryAt at' ∧ s.p = at' + 1 ∧ ∃ e, s.popSlot = some e ∧ e.shape ≠ .unit
  | .fld2 =>
    s.AddrHeld ∧ ∃ at', s.EntryAt at' ∧ s.p = at' + 2 ∧ ∃ e d2 f, s.popSlot = some e ∧
      e.shape = .pair f.domain d2 ∧ s.fv1 = some f ∧ f.wf = true
  | .str =>
    s.AddrHeld ∧ s.kind = some kRepVer ∧ (∀ b ∈ s.vstr, b.toNat < 0x80) ∧ s.p = 8 + s.vstr.length
  | .term =>
    s.AddrHeld ∧
      (((s.kind = some kRestore ∨ s.kind = some kReqVer) ∧ s.p = 7) ∨
        ∃ at' pv, s.EntryAt at' ∧ s.capturedParameter = some pv ∧ pv.wf s.cfg = true ∧
          s.p = at' + pv.payload.entryLength)
  | .done => True

/-- R26: what `EMSG` holds is a value of type Message. -/
def State.EmsgOk (s : State) : Prop := s.messageIn.wf s.cfg = true

/-- R194, R41: the first `n` bytes of `OUT` are the first `n` bytes of the frame of `m`. -/
def State.OutHolds (s : State) (m : Message) (n : Nat) : Prop :=
  ∀ i, i < n → s.outBuf.read i = (encodeMessage s.cfg m)[i]?

/-- R32, R45, R194: while BUSY the encoder is inside the frame of `EMSG` and has stored what it has emitted; while DONE,
and only then, `OUT_LEN` holds the length of a frame that stands in `OUT`. -/
def State.EncoderOk (s : State) : Prop :=
  (s.outLen.isSome ↔ s.estatus = .done) ∧
    (s.estatus = .busy → s.eidx < s.messageIn.frameLength ∧ s.OutHolds s.messageIn s.eidx) ∧
    (s.estatus = .done → ∃ m : Message, m.wf s.cfg = true ∧ s.outLen = some m.frameLength ∧ s.OutHolds m m.frameLength)

/-- The invariant of the block, on top of R151's constraints on the table. -/
structure State.Inv (s : State) : Prop where
  config : s.cfg.Admissible
  buffers : s.BuffersOk
  results : s.ResultsOk
  phases : s.PhaseOk
  cursor : s.CursorOk
  captures : s.dstatus = .busy → s.CapturesOk
  emsg : s.EmsgOk
  encoder : s.EncoderOk

/-! ## What the statements speak in -/

/-- R196: a decode operation that has just been started on the frame in `IN`. -/
def State.Started (s : State) : Prop :=
  s.dstatus = .busy ∧ s.phase = .h0 ∧ s.p = 0 ∧ s.NoCaptures ∧ s.dmsg = none ∧ s.derr = none

/-- R194: an encode operation on `m` that has just been started. -/
def State.Encoding (s : State) (m : Message) : Prop :=
  s.estatus = .busy ∧ s.eidx = 0 ∧ s.messageIn = m ∧ s.outLen = none

/-- Everything but the decoder's own registers is as it was. -/
def State.KeepsOutsideDecoder (s t : State) : Prop :=
  t.cfg = s.cfg ∧ t.inBuf = s.inBuf ∧ t.inLen = s.inLen ∧ t.emsg = s.emsg ∧ t.estatus = s.estatus ∧
    t.eidx = s.eidx ∧ t.outBuf = s.outBuf ∧ t.outLen = s.outLen ∧ t.turn = s.turn ∧ t.inputs = s.inputs ∧
    t.port = s.port ∧ t.epoch = s.epoch

/-- Everything but the encoder's status, index and outputs is as it was. -/
def State.KeepsOutsideEncoder (s t : State) : Prop :=
  t.cfg = s.cfg ∧ t.inBuf = s.inBuf ∧ t.inLen = s.inLen ∧ t.phase = s.phase ∧ t.p = s.p ∧ t.addr = s.addr ∧
    t.kind = s.kind ∧ t.pop = s.pop ∧ t.fv1 = s.fv1 ∧ t.fv2 = s.fv2 ∧ t.vstr = s.vstr ∧ t.dstatus = s.dstatus ∧
    t.derr = s.derr ∧ t.dmsg = s.dmsg ∧ t.emsg = s.emsg ∧ t.turn = s.turn ∧ t.inputs = s.inputs ∧ t.port = s.port ∧
    t.epoch = s.epoch

/-- The bytes `bs` stand in a buffer from address `a` on. -/
def Memory.Holds (m : Memory) (a : Nat) (bs : List Byte) : Prop :=
  ∀ k, k < bs.length → m.read (a + k) = bs[k]?

/-- Outside the `n` bytes from address `a` on, a buffer reads as another did. -/
def Memory.SameOutside (m m' : Memory) (a n : Nat) : Prop :=
  ∀ x, ¬(a ≤ x ∧ x < a + n) → m'.read x = m.read x

/-- What holds of a decode operation the moment it has ended with `r` (R180, R193). -/
def State.EndedWith (t : State) (r : Except ErrorKind Message) : Prop :=
  match r with
  | .ok m => t.dstatus = .ok ∧ t.dmsg = some m ∧ t.derr = none
  | .error e => t.dstatus = .err ∧ t.derr = some e ∧ t.dmsg = none

end Sys2Proof.Machine

namespace Sys2Proof

/-- R101 to R113: the last byte of each codec's range, which begins at 0x00. -/
def Domain.lastByte : Domain → Nat
  | .toggle => 0x01
  | .blendMode => 0x01
  | .oscRange => 0x03
  | .keyTrackMode => 0x01
  | .semitoneOffset => 0x18
  | .lfoIndex => 0x04
  | .lfoShape => 0x04
  | .lfoPhaseOffset => 0x07
  | .modSource => 0x03
  | .assignOutTarget => 0x04
  | .envRetriggerMode => 0x01
  | .midiChannel => 0x0F
  | .percentage => 0x3F

end Sys2Proof
end

