-- ==== Sys2Proof/Certificates/Slice0/Obligations.lean ====
section
/-! DEFINITION. The statements for the provers, one for each rule or law of the spec they formalise. -/

open Sys2Proof Sys2Proof.Machine

/-! ## Value codecs -/

/-- R100: each codec's range, and that reading and writing undo each other. -/
def Obligations.CodecReadsInvertWrites : Prop :=
  ∀ d : Domain,
    (∀ v : Byte, (d.decodeByte v).isSome = true ↔ v.toNat ≤ d.lastByte) ∧
    (∀ f : FieldValue, f.domain = d → f.wf = true → d.decodeByte f.encode = some f) ∧
    (∀ (v : Byte) (f : FieldValue), d.decodeByte v = some f → f.domain = d ∧ f.wf = true ∧ f.encode = v) ∧
    (∀ f g : FieldValue, f.domain = d → g.domain = d → f.wf = true → g.wf = true → f.encode = g.encode → f = g)

/-- R101, R102, R103, R104, R107, R109, R110, R111: which byte is which enumerator. -/
def Obligations.EnumeratorCodecTables : Prop :=
  (∀ v : Byte, Domain.toggle.decodeByte v =
    if v = 0x00#8 then some (.toggle .off) else if v = 0x01#8 then some (.toggle .on) else none) ∧
  (∀ v : Byte, Domain.blendMode.decodeByte v =
    if v = 0x00#8 then some (.blendMode .blend) else if v = 0x01#8 then some (.blendMode .switch) else none) ∧
  (∀ v : Byte, Domain.oscRange.decodeByte v =
    if v = 0x00#8 then some (.oscRange .oscRange0) else if v = 0x01#8 then some (.oscRange .oscRange1)
    else if v = 0x02#8 then some (.oscRange .oscRange2) else if v = 0x03#8 then some (.oscRange .oscRange3) else none) ∧
  (∀ v : Byte, Domain.keyTrackMode.decodeByte v =
    if v = 0x00#8 then some (.keyTrackMode .track) else if v = 0x01#8 then some (.keyTrackMode .hold) else none) ∧
  (∀ v : Byte, Domain.lfoShape.decodeByte v =
    if v = 0x00#8 then some (.lfoShape .lfoShape0) else if v = 0x01#8 then some (.lfoShape .lfoShape1)
    else if v = 0x02#8 then some (.lfoShape .lfoShape2) else if v = 0x03#8 then some (.lfoShape .lfoShape3)
    else if v = 0x04#8 then some (.lfoShape .lfoShape4) else none) ∧
  (∀ v : Byte, Domain.modSource.decodeByte v =
    if v = 0x00#8 then some (.modSource .modSource0) else if v = 0x01#8 then some (.modSource .modSource1)
    else if v = 0x02#8 then some (.modSource .modSource2) else if v = 0x03#8 then some (.modSource .modSource3) else none) ∧
  (∀ v : Byte, Domain.assignOutTarget.decodeByte v =
    if v = 0x00#8 then some (.assignOutTarget .assignOut0) else if v = 0x01#8 then some (.assignOutTarget .assignOut1)
    else if v = 0x02#8 then some (.assignOutTarget .assignOut2) else if v = 0x03#8 then some (.assignOutTarget .assignOut3)
    else if v = 0x04#8 then some (.assignOutTarget .assignOut4) else none) ∧
  (∀ v : Byte, Domain.envRetriggerMode.decodeByte v =
    if v = 0x00#8 then some (.envRetriggerMode .staccato) else if v = 0x01#8 then some (.envRetriggerMode .legato)
    else none) ∧
  (FieldValue.toggle .off).encode = 0x00#8 ∧ (FieldValue.toggle .on).encode = 0x01#8 ∧
  (FieldValue.blendMode .blend).encode = 0x00#8 ∧ (FieldValue.blendMode .switch).encode = 0x01#8 ∧
  (FieldValue.oscRange .oscRange0).encode = 0x00#8 ∧ (FieldValue.oscRange .oscRange1).encode = 0x01#8 ∧
  (FieldValue.oscRange .oscRange2).encode = 0x02#8 ∧ (FieldValue.oscRange .oscRange3).encode = 0x03#8 ∧
  (FieldValue.keyTrackMode .track).encode = 0x00#8 ∧ (FieldValue.keyTrackMode .hold).encode = 0x01#8 ∧
  (FieldValue.lfoShape .lfoShape0).encode = 0x00#8 ∧ (FieldValue.lfoShape .lfoShape1).encode = 0x01#8 ∧
  (FieldValue.lfoShape .lfoShape2).encode = 0x02#8 ∧ (FieldValue.lfoShape .lfoShape3).encode = 0x03#8 ∧
  (FieldValue.lfoShape .lfoShape4).encode = 0x04#8 ∧
  (FieldValue.modSource .modSource0).encode = 0x00#8 ∧ (FieldValue.modSource .modSource1).encode = 0x01#8 ∧
  (FieldValue.modSource .modSource2).encode = 0x02#8 ∧ (FieldValue.modSource .modSource3).encode = 0x03#8 ∧
  (FieldValue.assignOutTarget .assignOut0).encode = 0x00#8 ∧ (FieldValue.assignOutTarget .assignOut1).encode = 0x01#8 ∧
  (FieldValue.assignOutTarget .assignOut2).encode = 0x02#8 ∧ (FieldValue.assignOutTarget .assignOut3).encode = 0x03#8 ∧
  (FieldValue.assignOutTarget .assignOut4).encode = 0x04#8 ∧
  (FieldValue.envRetriggerMode .staccato).encode = 0x00#8 ∧ (FieldValue.envRetriggerMode .legato).encode = 0x01#8

/-- R105, R106, R108, R112, R113: the arithmetic codecs. -/
def Obligations.NumericCodecArithmetic : Prop :=
  (∀ v : Byte, Domain.semitoneOffset.decodeByte v =
    if v.toNat ≤ 0x18 then some (.semitoneOffset ((v.toNat : Int) - 12)) else none) ∧
  (∀ v : Byte, Domain.lfoIndex.decodeByte v = if v.toNat ≤ 0x04 then some (.lfoIndex (v.toNat + 1)) else none) ∧
  (∀ v : Byte, Domain.lfoPhaseOffset.decodeByte v =
    if v.toNat ≤ 0x07 then some (.lfoPhaseOffset (45 * v.toNat)) else none) ∧
  (∀ v : Byte, Domain.midiChannel.decodeByte v = if v.toNat ≤ 0x0F then some (.midiChannel (v.toNat + 1)) else none) ∧
  (∀ v : Byte, Domain.percentage.decodeByte v = if v.toNat ≤ 0x3F then some (.percentage v.toNat) else none) ∧
  (∀ s : Int, -12 ≤ s → s ≤ 12 → ((FieldValue.semitoneOffset s).encode.toNat : Int) = s + 12) ∧
  (∀ n : Nat, 1 ≤ n → n ≤ 5 → (FieldValue.lfoIndex n).encode.toNat = n - 1) ∧
  (∀ k : Nat, k ≤ 7 → (FieldValue.lfoPhaseOffset (45 * k)).encode.toNat = k) ∧
  (∀ n : Nat, 1 ≤ n → n ≤ 16 → (FieldValue.midiChannel n).encode.toNat = n - 1) ∧
  (∀ l : Nat, l ≤ 63 → (FieldValue.percentage l).encode.toNat = l)

/-- R117: the field read, length before value. -/
def Obligations.FieldReadChecksLengthThenValue : Prop :=
  ∀ (d : Domain) (v : Byte) (rest : List Byte),
    readField d [] = .error .truncatedInput ∧
    (d.decodeByte v = none → readField d (v :: rest) = .error .invalidEnumValue) ∧
    (∀ f, d.decodeByte v = some f → readField d (v :: rest) = .ok (f, rest)) ∧
    readPlaceholder [] = .error .truncatedInput ∧ readPlaceholder (v :: rest) = .ok rest

/-- R118: the codec laws. -/
def Obligations.FieldReadReturnsWrittenValue : Prop :=
  (∀ (f : FieldValue) (rest : List Byte), f.wf = true → readField f.domain (f.encode :: rest) = .ok (f, rest)) ∧
  (∀ (v : Byte) (rest : List Byte), readPlaceholder (v :: rest) = .ok rest) ∧
  (∀ x : Nat, Domain.percentage.decodeByte (FieldValue.percentage (pctToLevel x)).encode =
    some (.percentage (pctToLevel x)))

/-- R115: the quantizer is the floor of min(x, 100) × 63 / 100, monotone, at 63 only from 100 on; over 0..100 each level
is the image of one input or of two, 37 of them of two; and its port presents it for every integer 0..255. -/
def Obligations.QuantizerIsExactFloor : Prop :=
  (∀ x : Nat, 100 * pctToLevel x ≤ min x 100 * 63 ∧ min x 100 * 63 < 100 * (pctToLevel x + 1)) ∧
  (∀ x : Nat, pctToLevel x ≤ 63 ∧ (pctToLevel x = 63 ↔ 100 ≤ x)) ∧
  (∀ x y : Nat, x ≤ y → pctToLevel x ≤ pctToLevel y) ∧
  (∀ l : Nat, l < 64 →
    (List.range 101).countP (fun x => pctToLevel x == l) = 1 ∨ (List.range 101).countP (fun x => pctToLevel x == l) = 2) ∧
  (List.range 64).countP (fun l => (List.range 101).countP (fun x => pctToLevel x == l) == 2) = 37 ∧
  (∀ (s : State) (rest : List Request) (x : Nat), x ≤ 255 → s.inputs = .quantize (x : Rat) :: rest →
    step s = .next { s with inputs := rest, port := some (.level (pctToLevel x)) })

/-! ## Catalogue -/

/-- R152: the demultiplexer, case by case. -/
def Obligations.DemultiplexerReadsEntryByShape : Prop :=
  ∀ (c : Config) (op : Byte) (e : Slot),
    readParameter c [] = .error .truncatedInput ∧
    (c.slotAt op = none → ∀ rest, readParameter c (op :: rest) = .error .unknownOpcode) ∧
    (c.slotAt op = some e → e.shape = .unit →
      readParameter c [op] = .error .truncatedInput ∧
      ∀ x rest, readParameter c (op :: x :: rest) = .ok (⟨e.name, .unit⟩, rest)) ∧
    (∀ d, c.slotAt op = some e → e.shape = .one d →
      readParameter c [op] = .error .truncatedInput ∧
      ∀ v rest, (d.decodeByte v = none → readParameter c (op :: v :: rest) = .error .invalidEnumValue) ∧
        ∀ f, d.decodeByte v = some f → readParameter c (op :: v :: rest) = .ok (⟨e.name, .one f⟩, rest)) ∧
    (∀ d1 d2, c.slotAt op = some e → e.shape = .pair d1 d2 →
      readParameter c [op] = .error .truncatedInput ∧
      ∀ v1, (d1.decodeByte v1 = none → ∀ rest, readParameter c (op :: v1 :: rest) = .error .invalidEnumValue) ∧
        ∀ f1, d1.decodeByte v1 = some f1 →
          readParameter c [op, v1] = .error .truncatedInput ∧
          ∀ v2 rest, (d2.decodeByte v2 = none → readParameter c (op :: v1 :: v2 :: rest) = .error .invalidEnumValue) ∧
            ∀ f2, d2.decodeByte v2 = some f2 →
              readParameter c (op :: v1 :: v2 :: rest) = .ok (⟨e.name, .pair f1 f2⟩, rest))

/-- R164: the catalogue laws. -/
def Obligations.CatalogueLaws : Prop :=
  (∀ (c c' : Config) (bs : List Byte), c.cat = c'.cat → readParameter c bs = readParameter c' bs) ∧
  ∀ c : Config, c.Admissible →
    (∀ (pv : ParameterValue) (rest : List Byte), pv.wf c = true →
      readParameter c (encodeParameter c pv ++ rest) = .ok (pv, rest)) ∧
    (∀ e ∈ c.cat, ∀ e' ∈ c.cat, e.opcode = e'.opcode ∨ e.name = e'.name → e = e') ∧
    (∀ e ∈ c.cat, e.opcode ∉ [kSet, kRestore, kReqVer, kRepVer, kUpdate]) ∧
    (∀ (op : Byte) (rest : List Byte), c.slotAt op = none → readParameter c (op :: rest) = .error .unknownOpcode)

/-- R71: every unassigned kind byte and catalogue byte is an unknown opcode. -/
def Obligations.UnassignedOpcodesAreUnknown : Prop :=
  ∀ c : Config, c.Admissible →
    (∀ (a k : Byte) (addr : DeviceAddress) (rest : List Byte), addressDecodeByte a = some addr →
      k ∉ [kSet, kRestore, kReqVer, kRepVer, kUpdate] →
      decodeMessage c (header ++ a :: k :: rest) = .error .unknownOpcode) ∧
    (∀ (op : Byte) (rest : List Byte), (c.slotAt op = none ∨ 0x3C ≤ op.toNat ∨ op = 0x0A#8 ∨ op = 0x0B#8) →
      readParameter c (op :: rest) = .error .unknownOpcode)

/-- R156: what the encoder emits for a parameter value; all bytes are below 0x80. -/
def Obligations.EntryBytesByShape : Prop :=
  ∀ (c : Config) (pv : ParameterValue), c.Admissible → pv.wf c = true →
    ∃ op, c.opcodeOf pv.name = some op ∧ (∃ e, c.slotAt op = some e ∧ e.name = pv.name) ∧
      (pv.payload = .unit → encodeParameter c pv = [op, 0x00#8]) ∧
      (∀ f, pv.payload = .one f → encodeParameter c pv = [op, f.encode]) ∧
      (∀ f1 f2, pv.payload = .pair f1 f2 → encodeParameter c pv = [op, f1.encode, f2.encode]) ∧
      (∀ b ∈ encodeParameter c pv, b.toNat < 0x80) ∧
      (∀ pv' : ParameterValue, pv'.wf c = true → encodeParameter c pv' = encodeParameter c pv → pv' = pv)

/-- R157. -/
def Obligations.ParaphonicModeEntry : Prop :=
  ∀ (c : Config) (rest : List Byte), c.Admissible →
    c.slotAt 0x0F#8 = some ⟨0x0F#8, .paraphonicMode, .one .toggle⟩ ∧
    decode c .entry (0x0F#8 :: 0x00#8 :: rest) = .ok (.paraphonicMode .off) ∧
    decode c .entry (0x0F#8 :: 0x01#8 :: rest) = .ok (.paraphonicMode .on) ∧
    (∀ v : Byte, 0x02 ≤ v.toNat → decode c .entry (0x0F#8 :: v :: rest) = .error .invalidEnumValue) ∧
    decode c .entry [0x0F#8] = .error .truncatedInput ∧
    (∀ t : Toggle, encode c (.paraphonicMode t) = [0x0F#8, t.encode]) ∧
    encode c (.setParameter .broadcast ⟨.paraphonicMode, .one (.toggle .on)⟩) =
      [0xF0#8, 0x00#8, 0x20#8, 0x32#8, 0x28#8, 0x7F#8, 0x0A#8, 0x0F#8, 0x01#8, 0xF7#8]

/-- R158, R159: the two named unit entries, whatever their opcodes; the placeholder is not validated. -/
def Obligations.NamedUnitEntries : Prop :=
  ∀ c : Config, c.Admissible →
    (∃ o, c.opResetLfoShapeOrder = some o ∧ (∃ e, c.slotAt o = some e ∧ e.shape = .unit) ∧
      decode c .entry [o] = .error .truncatedInput ∧
      (∀ x rest, decode c .entry (o :: x :: rest) = .ok .resetLfoShapeOrder) ∧
      encode c .resetLfoShapeOrder = [o, 0x00#8]) ∧
    (∃ o, c.opResetKeyRange = some o ∧ (∃ e, c.slotAt o = some e ∧ e.shape = .unit) ∧
      decode c .entry [o] = .error .truncatedInput ∧
      (∀ x rest, decode c .entry (o :: x :: rest) = .ok .resetKeyRange) ∧
      encode c .resetKeyRange = [o, 0x00#8])

/-- R160. -/
def Obligations.LfoShapeAtIndexEntry : Prop :=
  ∀ c : Config, c.Admissible → ∃ o, c.opLfoShapeAtIndex = some o ∧
    (∃ e, c.slotAt o = some e ∧ e.shape = .pair .lfoIndex .lfoShape) ∧
    (∀ (b1 : Byte) (sh : LfoShape) rest, b1.toNat ≤ 4 →
      decode c .entry (o :: b1 :: sh.encode :: rest) = .ok (.lfoShapeAtIndex (b1.toNat + 1) sh)) ∧
    (∀ (b1 : Byte) rest, 5 ≤ b1.toNat → decode c .entry (o :: b1 :: rest) = .error .invalidEnumValue) ∧
    (∀ (b1 b2 : Byte) rest, b1.toNat ≤ 4 → 5 ≤ b2.toNat →
      decode c .entry (o :: b1 :: b2 :: rest) = .error .invalidEnumValue) ∧
    (∀ b1 : Byte, b1.toNat ≤ 4 → decode c .entry [o, b1] = .error .truncatedInput) ∧
    decode c .entry [o] = .error .truncatedInput ∧
    (∀ (n : Nat) (sh : LfoShape), encode c (.lfoShapeAtIndex n sh) = [o, lfoIndexEncode n, sh.encode])

/-- R161. -/
def Obligations.LfoPhaseAtIndexEntry : Prop :=
  ∀ c : Config, c.Admissible → ∃ o, c.opLfoPhaseAtIndex = some o ∧
    (∃ e, c.slotAt o = some e ∧ e.shape = .pair .lfoIndex .lfoPhaseOffset) ∧
    (∀ (b1 b2 : Byte) rest, b1.toNat ≤ 4 → b2.toNat ≤ 7 →
      decode c .entry (o :: b1 :: b2 :: rest) = .ok (.lfoPhaseAtIndex (b1.toNat + 1) (45 * b2.toNat))) ∧
    (∀ (b1 : Byte) rest, 5 ≤ b1.toNat → decode c .entry (o :: b1 :: rest) = .error .invalidEnumValue) ∧
    (∀ (b1 b2 : Byte) rest, b1.toNat ≤ 4 → 8 ≤ b2.toNat →
      decode c .entry (o :: b1 :: b2 :: rest) = .error .invalidEnumValue) ∧
    (∀ b1 : Byte, b1.toNat ≤ 4 → decode c .entry [o, b1] = .error .truncatedInput) ∧
    decode c .entry [o] = .error .truncatedInput ∧
    (∀ n d : Nat, encode c (.lfoPhaseAtIndex n d) = [o, lfoIndexEncode n, lfoPhaseEncode d])

/-! ## Envelope -/

/-- R182: the header check, byte by byte in offset order. -/
def Obligations.HeaderIsCheckedInOrder : Prop :=
  header = [0xF0#8, 0x00#8, 0x20#8, 0x32#8, 0x28#8] ∧
  (∀ rest : List Byte, expectHeader (header ++ rest) = .ok rest) ∧
  ∀ (c : Config) (k : Nat), k < 5 →
    decodeMessage c (header.take k) = .error .truncatedInput ∧
    ∀ (v : Byte) (rest : List Byte), header[k]? ≠ some v →
      decodeMessage c (header.take k ++ v :: rest) = .error .structuralMismatch

/-- R183, R184: the device address, both ways, behind a correct header. -/
def Obligations.DeviceAddressByte : Prop :=
  (∀ c : Config, decodeMessage c header = .error .truncatedInput) ∧
  (∀ (v : Byte) (rest : List Byte), v.toNat ≤ 0x0F → readAddress (v :: rest) = .ok (.channel (v.toNat + 1), rest)) ∧
  (∀ rest : List Byte, readAddress (0x7F#8 :: rest) = .ok (.broadcast, rest)) ∧
  (∀ (c : Config) (v : Byte) (rest : List Byte), 0x10 ≤ v.toNat → v ≠ 0x7F#8 →
    readAddress (v :: rest) = .error .invalidEnumValue ∧
    decodeMessage c (header ++ v :: rest) = .error .invalidEnumValue) ∧
  (∀ n : Nat, 1 ≤ n → n ≤ 16 → (DeviceAddress.channel n).encode.toNat = n - 1) ∧
  DeviceAddress.broadcast.encode = 0x7F#8

/-- R185: the kind dispatch, on all eight bits of the byte at offset 6. -/
def Obligations.KindDispatch : Prop :=
  ∀ (c : Config) (a k : Byte) (addr : DeviceAddress) (rest : List Byte), addressDecodeByte a = some addr →
    decodeMessage c (header ++ [a]) = .error .truncatedInput ∧
    (k ∉ [kSet, kRestore, kReqVer, kRepVer, kUpdate] →
      decodeMessage c (header ++ a :: k :: rest) = .error .unknownOpcode) ∧
    (∀ m, decodeMessage c (header ++ a :: k :: rest) = .ok m →
      (k = 0x0A#8 ∧ ∃ pv, m = .setParameter addr pv) ∨ (k = 0x0B#8 ∧ m = .restoreParameter addr) ∨
      (k = 0x73#8 ∧ m = .requestVersion addr) ∨ (k = 0x74#8 ∧ ∃ s, m = .reportVersion addr s) ∨
      (k = 0x5A#8 ∧ ∃ pv, m = .parameterUpdate addr pv))

/-- R187: the three tests at the terminator, in their order, on the machine. -/
def Obligations.TerminatorTestsInOrder : Prop :=
  ∀ s : State, s.dstatus = .busy → s.phase = .term →
    (s.inLen ≤ s.p → tickDecoder s = .next (s.raise .truncatedInput)) ∧
    (s.p + 1 < s.inLen → tickDecoder s = .next (s.raise .trailingBytes)) ∧
    (s.p + 1 = s.inLen → s.inByte s.p ≠ 0xF7#8 → tickDecoder s = .next (s.raise .structuralMismatch)) ∧
    (∀ m, s.p + 1 = s.inLen → s.inByte s.p = 0xF7#8 → s.capturedMessage = some m →
      tickDecoder s = .next (s.accept m) ∧ (s.accept m).p = s.inLen)

/-- R188: SetParameter, both ways. -/
def Obligations.SetParameterFrames : Prop :=
  ∀ (c : Config) (a : Byte) (addr : DeviceAddress) (tail : List Byte), addressDecodeByte a = some addr →
    (∀ e, readParameter c tail = .error e → decodeMessage c (header ++ a :: 0x0A#8 :: tail) = .error e) ∧
    (∀ pv rest, readParameter c tail = .ok (pv, rest) →
      (rest = [] → decodeMessage c (header ++ a :: 0x0A#8 :: tail) = .error .truncatedInput) ∧
      (∀ v w r, rest = v :: w :: r → decodeMessage c (header ++ a :: 0x0A#8 :: tail) = .error .trailingBytes) ∧
      (∀ v, rest = [v] → v ≠ 0xF7#8 → decodeMessage c (header ++ a :: 0x0A#8 :: tail) = .error .structuralMismatch) ∧
      (rest = [0xF7#8] → decodeMessage c (header ++ a :: 0x0A#8 :: tail) = .ok (.setParameter addr pv))) ∧
    (∀ pv, encodeMessage c (.setParameter addr pv) =
      header ++ addr.encode :: 0x0A#8 :: encodeParameter c pv ++ [0xF7#8])

/-- R189, R190: the two kinds with no payload, both ways. -/
def Obligations.PayloadlessFrames : Prop :=
  ∀ (c : Config) (a k : Byte) (addr : DeviceAddress) (m : Message), addressDecodeByte a = some addr →
    (k = 0x0B#8 ∧ m = .restoreParameter addr ∨ k = 0x73#8 ∧ m = .requestVersion addr) →
    decodeMessage c (header ++ [a, k, 0xF7#8]) = .ok m ∧
    decodeMessage c (header ++ [a, k]) = .error .truncatedInput ∧
    (∀ v w rest, decodeMessage c (header ++ a :: k :: v :: w :: rest) = .error .trailingBytes) ∧
    (∀ v, v ≠ 0xF7#8 → decodeMessage c (header ++ [a, k, v]) = .error .structuralMismatch) ∧
    encodeMessage c m = header ++ [addr.encode, k, 0xF7#8]

/-- R191: ReportVersion, both ways: the string ends at the first terminator, which must be the last byte. -/
def Obligations.ReportVersionFrames : Prop :=
  ∀ (c : Config) (a : Byte) (addr : DeviceAddress) (s : List Byte), addressDecodeByte a = some addr →
    (∀ b ∈ s, b.toNat < 0x80) →
    decodeMessage c (header ++ a :: 0x74#8 :: 0x01#8 :: s ++ [0xF7#8]) = .ok (.reportVersion addr s) ∧
    decodeMessage c (header ++ a :: 0x74#8 :: 0x01#8 :: s) = .error .truncatedInput ∧
    (∀ v rest, decodeMessage c (header ++ a :: 0x74#8 :: 0x01#8 :: s ++ 0xF7#8 :: v :: rest) = .error .trailingBytes) ∧
    (∀ (v : Byte) rest, 0x80 ≤ v.toNat → v ≠ 0xF7#8 →
      decodeMessage c (header ++ a :: 0x74#8 :: 0x01#8 :: s ++ v :: rest) = .error .invalidEnumValue) ∧
    (∀ (v : Byte) rest, v ≠ 0x01#8 → decodeMessage c (header ++ a :: 0x74#8 :: v :: rest) = .error .structuralMismatch) ∧
    decodeMessage c (header ++ [a, 0x74#8]) = .error .truncatedInput ∧
    encodeMessage c (.reportVersion addr s) = header ++ addr.encode :: 0x74#8 :: 0x01#8 :: s ++ [0xF7#8]

/-- R192: ParameterUpdate, both ways. -/
def Obligations.ParameterUpdateFrames : Prop :=
  ∀ (c : Config) (a : Byte) (addr : DeviceAddress) (tail : List Byte), addressDecodeByte a = some addr →
    decodeMessage c (header ++ [a, 0x5A#8]) = .error .truncatedInput ∧
    (∀ v : Byte, v ≠ 0x01#8 → decodeMessage c (header ++ a :: 0x5A#8 :: v :: tail) = .error .structuralMismatch) ∧
    (∀ e, readParameter c tail = .error e → decodeMessage c (header ++ a :: 0x5A#8 :: 0x01#8 :: tail) = .error e) ∧
    (∀ pv rest, readParameter c tail = .ok (pv, rest) →
      (rest = [] → decodeMessage c (header ++ a :: 0x5A#8 :: 0x01#8 :: tail) = .error .truncatedInput) ∧
      (∀ v w r, rest = v :: w :: r →
        decodeMessage c (header ++ a :: 0x5A#8 :: 0x01#8 :: tail) = .error .trailingBytes) ∧
      (∀ v, rest = [v] → v ≠ 0xF7#8 →
        decodeMessage c (header ++ a :: 0x5A#8 :: 0x01#8 :: tail) = .error .structuralMismatch) ∧
      (rest = [0xF7#8] → decodeMessage c (header ++ a :: 0x5A#8 :: 0x01#8 :: tail) = .ok (.parameterUpdate addr pv))) ∧
    (∀ pv, encodeMessage c (.parameterUpdate addr pv) =
      header ++ addr.encode :: 0x5A#8 :: 0x01#8 :: encodeParameter c pv ++ [0xF7#8])

/-- R66: the length of every well-formed frame, emitted or accepted. -/
def Obligations.FrameLengths : Prop :=
  ∀ c : Config, c.Admissible →
    (∀ m : Message, m.wf c = true → (encodeMessage c m).length = m.frameLength) ∧
    (∀ (bs : List Byte) (m : Message), decodeMessage c bs = .ok m → bs.length = m.frameLength) ∧
    (∀ a, (Message.restoreParameter a).frameLength = 8 ∧ (Message.requestVersion a).frameLength = 8) ∧
    (∀ a n, (Message.setParameter a ⟨n, .unit⟩).frameLength = 10 ∧ (Message.parameterUpdate a ⟨n, .unit⟩).frameLength = 11) ∧
    (∀ a n f, (Message.setParameter a ⟨n, .one f⟩).frameLength = 10 ∧
      (Message.parameterUpdate a ⟨n, .one f⟩).frameLength = 11) ∧
    (∀ a n f1 f2, (Message.setParameter a ⟨n, .pair f1 f2⟩).frameLength = 11 ∧
      (Message.parameterUpdate a ⟨n, .pair f1 f2⟩).frameLength = 12) ∧
    (∀ a s, (Message.reportVersion a s).frameLength = 9 + s.length)

/-- R61: the seven bytes every frame begins with, emitted or accepted. -/
def Obligations.FramePrefix : Prop :=
  ∀ (c : Config) (bs : List Byte) (m : Message), c.Admissible →
    (m.wf c = true ∧ bs = encodeMessage c m ∨ decodeMessage c bs = .ok m) →
    ∃ a k rest, bs = 0xF0#8 :: 0x00#8 :: 0x20#8 :: 0x32#8 :: 0x28#8 :: a :: k :: rest ∧
      (a.toNat ≤ 0x0F ∨ a = 0x7F#8) ∧ k ∈ [0x0A#8, 0x0B#8, 0x73#8, 0x74#8, 0x5A#8]

/-- R194: an emitted frame fits the buffer, and only its first and last bytes have the high bit set. -/
def Obligations.EmittedFrameBytes : Prop :=
  ∀ (c : Config) (m : Message), c.Admissible → m.wf c = true →
    (encodeMessage c m).length ≤ c.maxFrameLen ∧
    ∃ mid, encodeMessage c m = 0xF0#8 :: mid ++ [0xF7#8] ∧ ∀ b ∈ mid, b.toNat < 0x80

/-- R26, R180: what decodes is a value of type Message. -/
def Obligations.DecodedMessagesAreWellFormed : Prop :=
  ∀ (c : Config) (bs : List Byte) (m : Message), c.Admissible → bs.length ≤ c.maxFrameLen →
    decodeMessage c bs = .ok m → m.wf c = true

/-- R197: the envelope laws. -/
def Obligations.EnvelopeLaws : Prop :=
  ∀ c : Config, c.Admissible →
    (∀ m : Message, m.wf c = true → decodeMessage c (encodeMessage c m) = .ok m) ∧
    (∀ (bs : List Byte) (m : Message), decodeMessage c bs = .ok m →
      encodeMessage c m = bs ∨
        ∃ at' pv x, m.entry? = some (at', pv) ∧ pv.payload = .unit ∧ bs[at' + 1]? = some x ∧
          encodeMessage c m = bs.set (at' + 1) 0x00#8) ∧
    (∀ (v : Byte) (rest : List Byte), 0x10 ≤ v.toNat → v.toNat ≤ 0x7E →
      decodeMessage c (header ++ v :: rest) = .error .invalidEnumValue) ∧
    (∀ bs : List Byte, ¬ (header <+: bs) →
      decodeMessage c bs = .error .structuralMismatch ∨ decodeMessage c bs = .error .truncatedInput)

/-- R164 item 2, R197 item 1: for every instruction, decoding its bytes gives it back. -/
def Obligations.DecodeInvertsEncode : Prop :=
  ∀ (c : Config) (i : Instr), c.Admissible → i.wf c = true → decode c i.fetch (encode c i) = .ok i

/-! ## Reset and configuration -/

/-- R33: the values after reset, at power-on and from any state; `CAT` is unchanged, and a decode sets `PHASE`, `P` and
`VSTR` to the same values again. Nothing is said of the bytes of `IN` and `OUT` and of `IN_LEN`. That `EMSG` and `OUT_LEN`
hold no value, where the rule writes "no value / unspecified", is the model's reading (assumption 6). -/
def Obligations.ResetValues : Prop :=
  (∀ s : State, s = State.reset ∨ (∃ u : State, s = u.resetBlock ∧ s.cfg = u.cfg) →
    s.dstatus = .idle ∧ s.derr = none ∧ s.dmsg = none ∧ s.phase = .h0 ∧ s.p = 0 ∧ s.addr = none ∧ s.kind = none ∧
    s.pop = none ∧ s.fv1 = none ∧ s.fv2 = none ∧ s.vstr = [] ∧ s.estatus = .idle ∧ s.emsg = none ∧ s.outLen = none) ∧
  (∀ u : State, u.resetBlock.cfg = u.cfg) ∧
  (∀ u : State, u.beginDecode.phase = .h0 ∧ u.beginDecode.p = 0 ∧ u.beginDecode.vstr = [])

/-- R260: reset from any state, an operation in flight or not; then the block waits. That `EMSG` holds no value after it is
the model's reading (assumption 6), and that waiting is a step that changes nothing its choice (assumption 17). -/
def Obligations.ResetAbandonsOperation : Prop :=
  ∀ (s : State) (rest : List Request), s.inputs = .reset :: rest →
    ∃ t, step s = .next t ∧ t.dstatus = .idle ∧ t.estatus = .idle ∧ t.derr = none ∧ t.dmsg = none ∧ t.outLen = none ∧
      t.phase = .h0 ∧ t.p = 0 ∧ t.vstr = [] ∧ t.addr = none ∧ t.kind = none ∧ t.pop = none ∧ t.fv1 = none ∧
      t.fv2 = none ∧ t.emsg = none ∧ t.cfg = s.cfg ∧ t.inputs = rest ∧ (rest = [] → step t = .next t)

/-- R22, R261, R262: nothing changes the table or the parameters. -/
def Obligations.ConfigurationNeverChanges : Prop :=
  ∀ s t : State, step s = .next t → t.cfg = s.cfg

/-! ## Requests -/

/-- R239: a decode starts alike from IDLE, OK and ERR, and clears the previous result. -/
def Obligations.DecodeStartsAlikeFromEveryResult : Prop :=
  ∀ (s : State) (rest : List Request), s.inputs = .startDecode :: rest → s.dstatus ≠ .busy →
    (∃ t, step s = .next t ∧ t.Started ∧ t.cfg = s.cfg ∧ t.inBuf = s.inBuf ∧ t.inLen = s.inLen ∧ t.emsg = s.emsg ∧
      t.estatus = s.estatus ∧ t.eidx = s.eidx ∧ t.outBuf = s.outBuf ∧ t.outLen = s.outLen ∧ t.inputs = rest) ∧
    (∀ (d : DStatus) (e : Option ErrorKind) (m : Option Message), d ≠ .busy →
      step { s with dstatus := d, derr := e, dmsg := m } = step s)

/-- R241, R266: the two refusals, neither of them one of the five kinds. A start request to a BUSY unit is refused; a
start request to a unit that is not BUSY is served whatever the other unit is doing (the encoder's with `EMSG` written, as
R263 requires; LoadedFrameIsTheFrame says what happens without). -/
def Obligations.RefusalsAreNotErrors : Prop :=
  ∀ (s : State) (rest : List Request),
    (∀ bs, s.inputs = .loadFrame bs :: rest → s.dstatus ≠ .busy → s.cfg.maxFrameLen < bs.length →
      step s = .refused .frameTooLong) ∧
    (∀ n, s.inputs = .writeInLen n :: rest → s.dstatus ≠ .busy → s.cfg.maxFrameLen < n →
      step s = .refused .frameTooLong) ∧
    (s.inputs = .startDecode :: rest → s.dstatus = .busy → step s = .refused (.unitBusy .decoder)) ∧
    (s.inputs = .startEncode :: rest → s.estatus = .busy → step s = .refused (.unitBusy .encoder)) ∧
    (s.inputs = .startDecode :: rest → s.dstatus ≠ .busy → ∃ t, step s = .next t ∧ t.dstatus = .busy) ∧
    (∀ m, s.inputs = .startEncode :: rest → s.estatus ≠ .busy → s.emsg = some m →
      ∃ t, step s = .next t ∧ t.Encoding m)

/-- R263, R30, R32: what each write to a unit's inputs does while the unit is not BUSY, and that it changes nothing else: a
loaded frame is the frame in `IN`, a byte written to `IN` reads back and every other byte as before, `IN_LEN` and `EMSG`
hold what is written to them; and an encode starts on what `EMSG` holds, which is a value of type Message also where
nothing has been written (assumption 11). Single writes of `IN` and `IN_LEN` are the model's requests (assumption 18),
and that `IN` keeps its bytes outside what is written, those beyond `IN_LEN` too, is its choice (assumption 21). -/
def Obligations.LoadedFrameIsTheFrame : Prop :=
  ∀ (s : State) (rest : List Request),
    (∀ bs, s.inputs = .loadFrame bs :: rest → s.dstatus ≠ .busy → bs.length ≤ s.cfg.maxFrameLen → Memory.wf s.inBuf →
      ∃ t, step s = .next t ∧ t.frame = bs ∧ t.inLen = bs.length ∧ Memory.SameOutside s.inBuf t.inBuf 0 bs.length ∧
        t = { s with inputs := rest, inBuf := t.inBuf, inLen := t.inLen }) ∧
    (∀ a b, s.inputs = .writeIn a b :: rest → s.dstatus ≠ .busy → a < s.cfg.maxFrameLen → Memory.wf s.inBuf →
      ∃ t, step s = .next t ∧ t.inByte a = b ∧ Memory.SameOutside s.inBuf t.inBuf a 1 ∧
        t = { s with inputs := rest, inBuf := t.inBuf }) ∧
    (∀ n, s.inputs = .writeInLen n :: rest → s.dstatus ≠ .busy → n ≤ s.cfg.maxFrameLen →
      step s = .next { s with inputs := rest, inLen := n }) ∧
    (∀ m, s.inputs = .loadMessage m :: rest → s.estatus ≠ .busy → m.wf s.cfg = true →
      ∃ t, step s = .next t ∧ t.messageIn = m ∧ t = { s with inputs := rest, emsg := some m }) ∧
    (s.inputs = .startEncode :: rest → s.estatus ≠ .busy →
      (∃ t, step s = .next t ∧ t.Encoding s.messageIn ∧ t = { s with
        inputs := rest, eidx := t.eidx, outLen := t.outLen, estatus := t.estatus, turn := t.turn }) ∧
      (s.emsg = none → s.messageIn.wf s.cfg = true))

/-- R264: a write to a unit's inputs while it is BUSY is a fault, whatever is written. That the fault comes before the
refusal of a frame or a length that is too long as well is the model's choice (assumption 20). -/
def Obligations.WriteWhileBusyFaults : Prop :=
  ∀ (s : State) (rest : List Request),
    (s.dstatus = .busy →
      (∀ bs, s.inputs = .loadFrame bs :: rest → step s = .fault (.writeWhileBusy .decoder)) ∧
      (∀ a b, s.inputs = .writeIn a b :: rest → step s = .fault (.writeWhileBusy .decoder)) ∧
      (∀ n, s.inputs = .writeInLen n :: rest → step s = .fault (.writeWhileBusy .decoder))) ∧
    (s.estatus = .busy → ∀ m, s.inputs = .loadMessage m :: rest → step s = .fault (.writeWhileBusy .encoder))

/-- R31: `DMSG` and `DERR` hold a value only in their status, and reading them in another is a fault. -/
def Obligations.DecodeResultReads : Prop :=
  ∀ (s : State) (rest : List Request),
    (s.inputs = .readDMsg :: rest → s.dstatus ≠ .ok → step s = .fault (.noValue .dmsg)) ∧
    (s.inputs = .readDErr :: rest → s.dstatus ≠ .err → step s = .fault (.noValue .derr)) ∧
    (∀ m, s.inputs = .readDMsg :: rest → s.dstatus = .ok → s.dmsg = some m →
      step s = .next { s with inputs := rest, port := some (.message m) }) ∧
    (∀ e, s.inputs = .readDErr :: rest → s.dstatus = .err → s.derr = some e →
      step s = .next { s with inputs := rest, port := some (.errorCode e.code) }) ∧
    (s.inputs = .readDStatus :: rest → step s = .next { s with inputs := rest, port := some (.dstatus s.dstatus) })

/-- R32: `OUT` below `OUT_LEN`, and `OUT_LEN`, hold values only while `ESTATUS = DONE`; the quantizer has an input and an
output and no state. That a read of `OUT` at or beyond `OUT_LEN` faults while DONE is the model's choice (assumption 19),
and that a byte nothing has stored reads as a free value (assumption 3). -/
def Obligations.EncodeResultReads : Prop :=
  ∀ (s : State) (rest : List Request),
    (∀ i, s.inputs = .readOut i :: rest → s.estatus ≠ .done → i < s.cfg.maxFrameLen → step s = .fault (.noValue .out)) ∧
    (s.inputs = .readOutLen :: rest → s.estatus ≠ .done → step s = .fault (.noValue .outLen)) ∧
    (∀ i n, s.inputs = .readOut i :: rest → s.outLen = some n → n ≤ i → i < s.cfg.maxFrameLen →
      step s = .fault (.noValue .out)) ∧
    (∀ i n, s.inputs = .readOut i :: rest → s.estatus = .done → s.outLen = some n → i < n → i < s.cfg.maxFrameLen →
      step s = .next { s with inputs := rest, port := some (.byte (s.outByte i)) } ∧
        ∀ b, s.outBuf.read i = some b → s.outByte i = b) ∧
    (∀ n, s.inputs = .readOutLen :: rest → s.estatus = .done → s.outLen = some n →
      step s = .next { s with inputs := rest, port := some (.length n) }) ∧
    (s.inputs = .readEStatus :: rest → step s = .next { s with inputs := rest, port := some (.estatus s.estatus) }) ∧
    (∀ x : Nat, x ≤ 255 → s.inputs = .quantize (x : Rat) :: rest →
      step s = .next { s with inputs := rest, port := some (.level (pctToLevel x)) })

/-- R265: no read before completion, and a visible result stays until the next start request to its unit (or a reset). -/
def Obligations.VisibleResultsStay : Prop :=
  ∀ s t : State, step s = .next t → (∀ rest, s.inputs ≠ .reset :: rest) →
    ((s.dstatus = .ok ∨ s.dstatus = .err) → (∀ rest, s.inputs ≠ .startDecode :: rest) →
      t.dstatus = s.dstatus ∧ t.dmsg = s.dmsg ∧ t.derr = s.derr) ∧
    (s.estatus = .done → (∀ rest, s.inputs ≠ .startEncode :: rest) →
      t.estatus = .done ∧ t.outLen = s.outLen ∧ t.outBuf = s.outBuf) ∧
    (s.dstatus = .busy → ∀ rest, s.inputs ≠ .readDMsg :: rest ∧ s.inputs ≠ .readDErr :: rest) ∧
    (s.estatus ≠ .done → ∀ rest, s.inputs ≠ .readOutLen :: rest ∧ ∀ i, s.inputs ≠ .readOut i :: rest)

/-! ## The invariant -/

/-- The invariant holds after reset, whatever the open parameters are (assumptions 2 and 6), and whichever message an
unwritten `EMSG` holds (assumption 11). -/
def Obligations.ResetMeetsInvariant : Prop := State.reset.Inv

/-- Every step from a state that meets the invariant, reached or not, ends in one that meets it. What the invariant says of
an unwritten `EMSG` is the model's choice (assumption 11). -/
def Obligations.StepKeepsInvariant : Prop := ∀ s t : State, s.Inv → step s = .next t → t.Inv

/-- R180, R196: an operation in flight always has a row, and an encode always has a byte to emit: no stop in between. That
the block has a step also where neither unit is BUSY, one that changes nothing, is the model's choice (assumption 17), and
so is what an encode emits where nothing has written `EMSG` (assumption 11). -/
def Obligations.UnitsAreNeverStuck : Prop :=
  ∀ s : State, s.Inv →
    (s.dstatus = .busy → ∃ t, tickDecoder s = .next t) ∧
    (s.estatus = .busy → ∃ t, tickEncoder s = .next t) ∧
    (s.inputs = [] → ∃ t, step s = .next t)

/-! ## The byte-serial decoder -/

/-- R27: the cursor starts at 0, moves by exactly one for each byte consumed, and stops at `IN_LEN` at the latest. -/
def Obligations.CursorMovesByOne : Prop :=
  State.reset.p = 0 ∧ (∀ s : State, s.beginDecode.p = 0) ∧
  (∀ s t : State, tickDecoder s = .next t →
    (t.p = s.p + 1 ∧ s.p < s.inLen) ∨ (t.p = s.p ∧ (t.dstatus = .err ∨ t = s)))

/-- R230, R237: a failure records exactly one kind, which reads as its code, and changes nothing else; it depends on no
byte of `IN` but the one at the cursor. -/
def Obligations.FailureRecordsOnlyItsKind : Prop :=
  (∀ s t : State, s.dstatus = .busy → s.dmsg = none → tickDecoder s = .next t → t.dstatus = .err →
    ∃ e, t = { s with dstatus := .err, derr := some e, phase := .done } ∧ t.dmsg = none ∧
      (∀ rest, step { t with inputs := .readDErr :: rest } =
        .next { t with inputs := rest, port := some (.errorCode e.code) }) ∧
      ∀ b : Memory, b.read s.p = s.inBuf.read s.p →
        tickDecoder { s with inBuf := b } = .next { t with inBuf := b }) ∧
  ErrorKind.structuralMismatch.code = 1 ∧ ErrorKind.unknownOpcode.code = 2 ∧ ErrorKind.invalidEnumValue.code = 3 ∧
  ErrorKind.truncatedInput.code = 4 ∧ ErrorKind.trailingBytes.code = 5

/-- R45: a result appears whole in the one step that completes the operation. An encode that becomes DONE in a state that
meets the invariant has the whole frame of the message in `EMSG` in `OUT` at that moment. -/
def Obligations.ResultsAppearInOneStep : Prop :=
  (∀ s t : State, s.dstatus = .busy → s.dmsg = none → s.derr = none → tickDecoder s = .next t →
    (t.dstatus = .busy ∧ t.dmsg = none ∧ t.derr = none) ∨
    (t.dstatus = .ok ∧ t.dmsg.isSome = true ∧ t.derr = none) ∨
    (t.dstatus = .err ∧ t.dmsg = none ∧ t.derr.isSome = true)) ∧
  (∀ s t : State, s.estatus = .busy → s.outLen = none → tickEncoder s = .next t →
    (t.estatus = .busy ∧ t.outLen = none) ∨ (t.estatus = .done ∧ t.outLen.isSome = true)) ∧
  (∀ (s t : State) (m : Message), s.Inv → s.estatus = .busy → s.emsg = some m → tickEncoder s = .next t →
    t.estatus = .done →
    t.outLen = some m.frameLength ∧ (encodeMessage s.cfg m).length = m.frameLength ∧
      Memory.Holds t.outBuf 0 (encodeMessage s.cfg m))

/-- R196: the state machine's result equals that of `Decode()` on the frame, in at most `IN_LEN + 1` steps. -/
def Obligations.RowsComputeDecode : Prop :=
  ∀ s : State, s.Started →
    ∃ t, runRows (s.inLen + 1) s = .next t ∧ t.EndedWith (decodeMessage s.cfg s.frame) ∧ t.phase = .done ∧
      s.KeepsOutsideDecoder t ∧
      (∀ m, decodeMessage s.cfg s.frame = .ok m → runRows s.inLen s = .next t ∧ t.p = s.inLen)

/-- R195: a frame that does not decode ends the operation with its failure and nothing else: no message, no retry. That
one move ends the whole operation is the model's granularity (assumption 4), and that a decoder that is not BUSY has a step
that changes nothing its choice (assumption 17). -/
def Obligations.UndecodableFrameYieldsOnlyFailure : Prop :=
  ∀ (s : State) (e : ErrorKind), s.inputs = [] → s.turn = .decoder → s.Started →
    decodeMessage s.cfg s.frame = .error e →
    ∃ t, step s = .next t ∧ t.dstatus = .err ∧ t.derr = some e ∧ t.dmsg = none ∧ t.phase = .done ∧
      s.KeepsOutsideDecoder t ∧ tickDecoder t = .next t

/-- R180: an operation ends with a message or a failure, never both, and its result is a function of frame and table. -/
def Obligations.DecodeResultIsFunctionOfFrame : Prop :=
  (∀ s : State, s.Started →
    ∃ t, runRows (s.inLen + 1) s = .next t ∧
      ((t.dstatus = .ok ∧ t.dmsg.isSome = true ∧ t.derr = none) ∨
        (t.dstatus = .err ∧ t.dmsg = none ∧ t.derr.isSome = true))) ∧
  (∀ s s' t t' : State, s.cfg.cat = s'.cfg.cat → s.frame = s'.frame → s.Started → s'.Started →
    runRows (s.inLen + 1) s = .next t → runRows (s'.inLen + 1) s' = .next t' →
    t.dstatus = t'.dstatus ∧ t.dmsg = t'.dmsg ∧ t.derr = t'.derr)

/-- R45, R196: the block's own move on a whole frame is what its rows do one by one. -/
def Obligations.WholeFrameStepEqualsRows : Prop :=
  ∀ s : State, s.cfg.Admissible → s.inLen ≤ s.cfg.maxFrameLen → s.inputs = [] → s.turn = .decoder → s.Started →
    step s = runRows (s.inLen + 1) s

/-! ## Running instructions -/

/-- A step runs the decoded instruction: a frame where a decode begins, an entry where an opcode is expected, and the
frame of `EMSG` where an encode begins (assumption 4: the granularity is the model's; assumption 11: what an unwritten
`EMSG` holds). -/
def Obligations.StepRunsFetchedInstruction : Prop :=
  (∀ (s : State) (i : Instr), s.inputs = [] → s.turn = .decoder → s.dstatus = .busy → s.phase = .h0 →
    decode s.cfg .frame s.remaining = .ok i → step s = exec i s) ∧
  (∀ (s : State) (i : Instr), s.inputs = [] → s.turn = .decoder → s.dstatus = .busy → s.phase = .pop →
    decode s.cfg .entry s.remaining = .ok i → step s = exec i s) ∧
  (∀ (s : State) (m : Message), s.inputs = [] → s.turn = .encoder → s.Encoding m → step s = exec m.toInstr s) ∧
  (∀ (s : State) (m : Message) (at' : Nat) (pv : ParameterValue), s.inputs = [] → s.turn = .encoder →
    s.estatus = .busy → s.messageIn = m → m.entry? = some (at', pv) → s.eidx = at' → step s = exec pv.toInstr s)

/-- A few words written out from the encodings (R157, R188 to R192) decode to their instructions. -/
def Obligations.WrittenOutFramesDecode : Prop :=
  ∀ c : Config, c.Admissible →
    decode c .frame [0xF0#8, 0x00#8, 0x20#8, 0x32#8, 0x28#8, 0x7F#8, 0x0A#8, 0x0F#8, 0x01#8, 0xF7#8] =
      .ok (.setParameter .broadcast ⟨.paraphonicMode, .one (.toggle .on)⟩) ∧
    decode c .frame [0xF0#8, 0x00#8, 0x20#8, 0x32#8, 0x28#8, 0x00#8, 0x5A#8, 0x01#8, 0x0F#8, 0x01#8, 0xF7#8] =
      .ok (.parameterUpdate (.channel 1) ⟨.paraphonicMode, .one (.toggle .on)⟩) ∧
    decode c .frame [0xF0#8, 0x00#8, 0x20#8, 0x32#8, 0x28#8, 0x7F#8, 0x74#8, 0x01#8, 0x31#8, 0x2E#8, 0x32#8, 0x2E#8,
      0x33#8, 0xF7#8] = .ok (.reportVersion .broadcast [0x31#8, 0x2E#8, 0x32#8, 0x2E#8, 0x33#8]) ∧
    decode c .frame [0xF0#8, 0x00#8, 0x20#8, 0x32#8, 0x28#8, 0x0E#8, 0x0B#8, 0xF7#8] = .ok (.restoreParameter (.channel 15)) ∧
    decode c .frame [0xF0#8, 0x00#8, 0x20#8, 0x32#8, 0x28#8, 0x02#8, 0x73#8, 0xF7#8] = .ok (.requestVersion (.channel 3)) ∧
    decode c .entry [0x0F#8, 0x01#8] = .ok (.paraphonicMode .on)

/-- R188, R192: decoding a SetParameter or ParameterUpdate completes: the message presented, the captures and the cursor
as their rows leave them, and nothing else changed. -/
def Obligations.CatalogueFrameDecodeCompletes : Prop :=
  ∀ (s : State) (a : DeviceAddress) (pv : ParameterValue), a.wf = true → pv.wf s.cfg = true → s.turn = .decoder →
    s.dstatus = .busy → s.phase = .h0 →
    (∃ t, exec (.setParameter a pv) s = .next t ∧ t.dstatus = .ok ∧ t.dmsg = some (.setParameter a pv) ∧
      t.phase = .done ∧ t.p = s.p + 8 + pv.payload.entryLength ∧ t.addr = some a ∧ t.kind = some 0x0A#8 ∧
      t.pop = s.cfg.opcodeOf pv.name ∧
      (pv.payload = .unit → t.fv1 = s.fv1 ∧ t.fv2 = s.fv2) ∧
      (∀ f, pv.payload = .one f → t.fv1 = some f ∧ t.fv2 = s.fv2) ∧
      (∀ f1 f2, pv.payload = .pair f1 f2 → t.fv1 = some f1 ∧ t.fv2 = some f2) ∧
      t.vstr = s.vstr ∧ t.derr = s.derr ∧ s.KeepsOutsideDecoder t) ∧
    (∃ t, exec (.parameterUpdate a pv) s = .next t ∧ t.dstatus = .ok ∧ t.dmsg = some (.parameterUpdate a pv) ∧
      t.phase = .done ∧ t.p = s.p + 9 + pv.payload.entryLength ∧ t.addr = some a ∧ t.kind = some 0x5A#8 ∧
      t.pop = s.cfg.opcodeOf pv.name ∧
      (pv.payload = .unit → t.fv1 = s.fv1 ∧ t.fv2 = s.fv2) ∧
      (∀ f, pv.payload = .one f → t.fv1 = some f ∧ t.fv2 = s.fv2) ∧
      (∀ f1 f2, pv.payload = .pair f1 f2 → t.fv1 = some f1 ∧ t.fv2 = some f2) ∧
      t.vstr = s.vstr ∧ t.derr = s.derr ∧ s.KeepsOutsideDecoder t)

/-- R189, R190: decoding a RestoreParameter or RequestVersion completes. -/
def Obligations.PayloadlessFrameDecodeCompletes : Prop :=
  ∀ (s : State) (a : DeviceAddress), a.wf = true → s.turn = .decoder → s.dstatus = .busy → s.phase = .h0 →
    exec (.restoreParameter a) s = .next { s with
      dstatus := .ok, dmsg := some (.restoreParameter a), phase := .done, p := s.p + 8, addr := some a
      kind := some 0x0B#8 } ∧
    exec (.requestVersion a) s = .next { s with
      dstatus := .ok, dmsg := some (.requestVersion a), phase := .done, p := s.p + 8, addr := some a
      kind := some 0x73#8 }

/-- R191: decoding a ReportVersion completes. -/
def Obligations.ReportVersionDecodeCompletes : Prop :=
  ∀ (s : State) (a : DeviceAddress) (v : List Byte), a.wf = true → (∀ b ∈ v, b.toNat < 0x80) →
    v.length + 9 ≤ s.cfg.maxFrameLen → s.turn = .decoder → s.dstatus = .busy → s.phase = .h0 →
    exec (.reportVersion a v) s = .next { s with
      dstatus := .ok, dmsg := some (.reportVersion a v), phase := .done, p := s.p + 9 + v.length, addr := some a
      kind := some 0x74#8, vstr := s.vstr ++ v }

/-- R194, R240: encoding completes for every message of type Message, whichever of the five frames it is: its frame stands
in `OUT` from 0 on, `OUT_LEN` is its length, every other byte of `OUT` and every other register is as before. -/
def Obligations.FrameEncodeCompletes : Prop :=
  ∀ (s : State) (m : Message), s.cfg.Admissible → m.wf s.cfg = true → Memory.wf s.outBuf → s.turn = .encoder →
    s.estatus = .busy → s.eidx = 0 →
    ∃ t, exec m.toInstr s = .next t ∧ t.estatus = .done ∧ t.outLen = some m.frameLength ∧ t.eidx = m.frameLength ∧
      Memory.Holds t.outBuf 0 (encodeMessage s.cfg m) ∧ (encodeMessage s.cfg m).length = m.frameLength ∧
      Memory.SameOutside s.outBuf t.outBuf 0 m.frameLength ∧ s.KeepsOutsideEncoder t

/-- R152, R157 to R162: decoding an entry completes, whichever of the six entry rows it is: the opcode and the fields
captured, the cursor past the entry, the terminator expected next. -/
def Obligations.EntryDecodeCompletes : Prop :=
  ∀ (s : State) (i : Instr) (pv : ParameterValue), i.parameter? = some pv → i.wf s.cfg = true → s.turn = .decoder →
    s.dstatus = .busy → s.phase = .pop →
    ∃ t, exec i s = .next t ∧ t.phase = .term ∧ t.dstatus = .busy ∧ t.p = s.p + pv.payload.entryLength ∧
      t.pop = s.cfg.opcodeOf pv.name ∧ t.pop.isSome = true ∧
      (pv.payload = .unit → t.fv1 = s.fv1 ∧ t.fv2 = s.fv2) ∧
      (∀ f, pv.payload = .one f → t.fv1 = some f ∧ t.fv2 = s.fv2) ∧
      (∀ f1 f2, pv.payload = .pair f1 f2 → t.fv1 = some f1 ∧ t.fv2 = some f2) ∧
      t.addr = s.addr ∧ t.kind = s.kind ∧ t.vstr = s.vstr ∧ t.derr = s.derr ∧ t.dmsg = s.dmsg ∧
      s.KeepsOutsideDecoder t

/-- R156, R157 to R162: encoding an entry completes, whichever of the six entry rows it is: its bytes stand in `OUT` from
the output index on, the index is past them, and nothing else has changed. -/
def Obligations.EntryEncodeCompletes : Prop :=
  ∀ (s : State) (i : Instr) (pv : ParameterValue), i.parameter? = some pv → i.wf s.cfg = true → s.turn = .encoder →
    s.estatus = .busy → Memory.wf s.outBuf → s.eidx + pv.payload.entryLength ≤ s.cfg.maxFrameLen →
    ∃ t, exec i s = .next t ∧ t.estatus = .busy ∧ t.outLen = s.outLen ∧ t.eidx = s.eidx + pv.payload.entryLength ∧
      Memory.Holds t.outBuf s.eidx (encodeParameter s.cfg pv) ∧
      (encodeParameter s.cfg pv).length = pv.payload.entryLength ∧
      Memory.SameOutside s.outBuf t.outBuf s.eidx pv.payload.entryLength ∧ s.KeepsOutsideEncoder t

/-! ## The encoder and the two units together -/

/-- R194, R268: emitting byte by byte ends after exactly `OUT_LEN` emits, with the frame of the message in `OUT`. Where
nothing has written `EMSG` that is the free message it holds (assumption 11). -/
def Obligations.EmitsComputeEncode : Prop :=
  ∀ (s : State) (m : Message), s.cfg.Admissible → m.wf s.cfg = true → Memory.wf s.outBuf → s.Encoding m →
    (∃ t, runEmits m.frameLength s = .next t ∧ t.estatus = .done ∧ t.outLen = some m.frameLength ∧
      Memory.Holds t.outBuf 0 (encodeMessage s.cfg m) ∧ (encodeMessage s.cfg m).length = m.frameLength ∧
      Memory.SameOutside s.outBuf t.outBuf 0 m.frameLength ∧ s.KeepsOutsideEncoder t) ∧
    (∀ n, n < m.frameLength → ∃ t, runEmits n s = .next t ∧ t.estatus = .busy ∧ t.eidx = n ∧
      Memory.Holds t.outBuf 0 ((encodeMessage s.cfg m).take n))

/-- R240: neither the encoder nor the quantizer fails. That one move ends a whole encode is the model's granularity
(assumption 4), and that an encode with `EMSG` unwritten ends too is its choice (assumption 11). -/
def Obligations.EncoderAndQuantizerNeverFail : Prop :=
  (∀ (s : State) (m : Message), s.Inv → s.inputs = [] → s.turn = .encoder → s.Encoding m →
    ∃ t, step s = .next t ∧ t.estatus = .done) ∧
  (∀ (s : State) (rest : List Request) (x : Byte), s.inputs = .quantize (x.toNat : Rat) :: rest →
    ∃ t l, step s = .next t ∧ t.port = some (.level l) ∧ l ≤ 63)

/-- R48: steps of the two units commute. That a unit that is not BUSY has a step, which changes nothing, is the model's
choice (assumption 17), and so is what an unwritten `EMSG` holds (assumption 11). -/
def Obligations.UnitStepsCommute : Prop :=
  ∀ s t u : State, tickDecoder s = .next t → tickEncoder s = .next u →
    ∃ w, tickEncoder t = .next w ∧ tickDecoder u = .next w

/-- R197 item 1 and R194 on the machine, whatever ran before: from any state that meets the invariant, loading the frame of
a message into a decoder that is not BUSY, starting it and one move end with that message; and writing a message to an
encoder that is not BUSY, starting it and one move end with its frame in `OUT` (assumption 4: one move for a frame). -/
def Obligations.LoadStartMoveDecodesMessage : Prop :=
  (∀ (s : State) (m : Message), s.Inv → s.dstatus ≠ .busy → m.wf s.cfg = true →
    s.inputs = [.loadFrame (encodeMessage s.cfg m), .startDecode] →
    ∃ t, Host.Core.run Sys2Proof.core 3 s = .next t ∧ t.dstatus = .ok ∧ t.dmsg = some m ∧ t.derr = none ∧
      t.frame = encodeMessage s.cfg m ∧ t.p = t.inLen) ∧
  (∀ (s : State) (m : Message), s.Inv → s.estatus ≠ .busy → m.wf s.cfg = true →
    s.inputs = [.loadMessage m, .startEncode] →
    ∃ t, Host.Core.run Sys2Proof.core 3 s = .next t ∧ t.estatus = .done ∧ t.emsg = some m ∧
      t.outLen = some m.frameLength ∧ (encodeMessage s.cfg m).length = m.frameLength ∧
      Memory.Holds t.outBuf 0 (encodeMessage s.cfg m) ∧ Memory.SameOutside s.outBuf t.outBuf 0 m.frameLength)
end

