-- ==== Sys2Proof/Laws/Catalogue.lean ====
section
/-! SUPPORT. The two lookups of an admissible table agree (R151, R156). -/

namespace Sys2Proof

/-- A slot found by opcode is in the table and has that opcode. -/
theorem Config.slotAt_some {c : Config} {op : Byte} {e : Slot} (h : c.slotAt op = some e) :
    e ∈ c.cat ∧ e.opcode = op :=
  ⟨List.mem_of_find?_eq_some h, by simpa using List.find?_some h⟩

/-- A slot found by name is in the table and has that name. -/
theorem Config.slotNamed_some {c : Config} {n : VariantName} {e : Slot} (h : c.slotNamed n = some e) :
    e ∈ c.cat ∧ e.name = n :=
  ⟨List.mem_of_find?_eq_some h, by simpa using List.find?_some h⟩

/-- In a list with no repeated key, looking a member's key up finds the member. -/
theorem find?_of_nodup {α β : Type} [DecidableEq β] {l : List α} {key : α → β} {x : α} (hn : (l.map key).Nodup)
    (hx : x ∈ l) : l.find? (fun y => key y == key x) = some x := by
  induction l with
  | nil => exact absurd hx (by simp)
  | cons y l ih =>
    simp only [List.map_cons, List.nodup_cons, List.mem_map, not_exists, not_and] at hn
    rcases List.mem_cons.1 hx with rfl | hx
    · simp
    · rw [List.find?_cons_of_neg (by simpa using fun he => hn.1 x hx he.symm), ih hn.2 hx]

/-- R22: each slot of an admissible table is the slot of its opcode. -/
theorem Config.slotAt_of_mem {c : Config} (h : c.Admissible) {e : Slot} (he : e ∈ c.cat) :
    c.slotAt e.opcode = some e :=
  find?_of_nodup h.2.2.2.1 he

/-- R151 item 3: each slot of an admissible table is the slot of its name. -/
theorem Config.slotNamed_of_mem {c : Config} (h : c.Admissible) {e : Slot} (he : e ∈ c.cat) :
    c.slotNamed e.name = some e :=
  find?_of_nodup h.2.2.2.2.1 he

/-- R156: the opcode of a name leads back to the slot of that name. -/
theorem Config.slotAt_opcodeOf {c : Config} (h : c.Admissible) {n : VariantName} {op : Byte}
    (ho : c.opcodeOf n = some op) : ∃ e, c.slotAt op = some e ∧ c.slotNamed n = some e ∧ e.name = n ∧ e.opcode = op := by
  simp only [Config.opcodeOf, Option.map_eq_some_iff] at ho
  obtain ⟨e, he, rfl⟩ := ho
  have hm := Config.slotNamed_some he
  exact ⟨e, Config.slotAt_of_mem h hm.1, he, hm.2, rfl⟩

/-- The opcode of the slot read is the opcode of its name. -/
theorem Config.opcodeOf_of_slotAt {c : Config} (h : c.Admissible) {op : Byte} {e : Slot} (he : c.slotAt op = some e) :
    c.opcodeOf e.name = some op ∧ c.slotNamed e.name = some e := by
  have hm := Config.slotAt_some he
  have hs := Config.slotNamed_of_mem h hm.1
  exact ⟨by simp [Config.opcodeOf, hs, hm.2], hs⟩

/-- The configuration of State.reset meets R151 whatever the open values are. -/
theorem Config.board_admissible : Config.board.Admissible := by
  unfold Config.board
  split
  · assumption
  · refine ⟨Nat.le_add_left 12 _, ?_⟩
    have hk : Config.Admissible ⟨paraphonicSlot :: Config.witnessSlots, 12⟩ := by decide
    exact hk.2

/-- What a well-formed parameter value says of its slot. -/
theorem ParameterValue.wf_slot {c : Config} {pv : ParameterValue} (h : pv.wf c = true) :
    ∃ e, c.slotNamed pv.name = some e ∧ e.shape = pv.payload.shape ∧ c.opcodeOf pv.name = some e.opcode ∧
      pv.payload.wf = true := by
  simp only [ParameterValue.wf, Bool.and_eq_true, beq_iff_eq, Option.map_eq_some_iff] at h
  obtain ⟨⟨e, he, hs⟩, hp⟩ := h
  exact ⟨e, he, hs, by simp [Config.opcodeOf, he], hp⟩

end Sys2Proof
end

