-- ==== Sys2Proof/Laws/Codec.lean ====
section
/-! SUPPORT. What each codec does, once: the domain and bounds of what it reads, and the range of what it writes. -/

namespace Sys2Proof

/-- A codec answers a value of its own domain. -/
theorem Domain.decodeByte_domain {d : Domain} {v : Byte} {f : FieldValue} (h : d.decodeByte v = some f) :
    f.domain = d := by
  cases d <;> simp only [Domain.decodeByte, Option.map_eq_some_iff] at h <;> obtain ⟨_, _, rfl⟩ := h <;> rfl

/-- A codec answers a value inside its domain's bounds. -/
theorem Domain.decodeByte_wf {d : Domain} {v : Byte} {f : FieldValue} (h : d.decodeByte v = some f) : f.wf = true := by
  cases d <;> simp only [Domain.decodeByte, Option.map_eq_some_iff] at h <;> obtain ⟨x, hx, rfl⟩ := h <;>
    simp only [FieldValue.wf, decide_eq_true_eq]
  · simp only [semitoneDecodeByte, Option.ite_none_right_eq_some, Option.some.injEq] at hx
    omega
  · simp only [lfoIndexDecodeByte, Option.ite_none_right_eq_some, Option.some.injEq] at hx
    omega
  · simp only [lfoPhaseDecodeByte, Option.ite_none_right_eq_some, Option.some.injEq] at hx
    omega
  · simp only [midiChannelDecodeByte, Option.ite_none_right_eq_some, Option.some.injEq] at hx
    omega
  · simp only [percentageDecodeByte, Option.ite_none_right_eq_some, Option.some.injEq] at hx
    omega

/-- The byte read from a codec's output for a numeric value: a small number survives in a byte. -/
theorem byte_ofNat_toNat {n : Nat} (h : n < 256) : (BitVec.ofNat 8 n).toNat = n := by
  simp only [BitVec.toNat_ofNat]
  omega

/-- R113: every codec writes at most 0x3F. -/
theorem FieldValue.encode_le {f : FieldValue} (h : f.wf = true) : f.encode.toNat ≤ 0x3F := by
  cases f <;> simp only [FieldValue.wf, decide_eq_true_eq] at h <;> simp only [FieldValue.encode]
  case toggle t => cases t <;> decide
  case blendMode t => cases t <;> decide
  case oscRange t => cases t <;> decide
  case keyTrackMode t => cases t <;> decide
  case semitoneOffset s => rw [semitoneEncode, byte_ofNat_toNat (by omega)]; omega
  case lfoIndex n => rw [lfoIndexEncode, byte_ofNat_toNat (by omega)]; omega
  case lfoShape t => cases t <;> decide
  case lfoPhaseOffset d => rw [lfoPhaseEncode, byte_ofNat_toNat (by omega)]; omega
  case modSource t => cases t <;> decide
  case assignOutTarget t => cases t <;> decide
  case envRetriggerMode t => cases t <;> decide
  case midiChannel n => rw [midiChannelEncode, byte_ofNat_toNat (by omega)]; omega
  case percentage l => rw [percentageEncode, byte_ofNat_toNat (by omega)]; omega

/-- What the address decode answers is an address. -/
theorem addressDecodeByte_wf {v : Byte} {a : DeviceAddress} (h : addressDecodeByte v = some a) : a.wf = true := by
  simp only [addressDecodeByte] at h
  split at h
  · obtain rfl := Option.some.inj h
    simp only [DeviceAddress.wf, decide_eq_true_eq]
    omega
  · split at h
    · obtain rfl := Option.some.inj h
      rfl
    · exact absurd h (by simp)

/-- The address byte is below 0x80. -/
theorem DeviceAddress.encode_lt {a : DeviceAddress} (h : a.wf = true) : a.encode.toNat < 0x80 := by
  cases a with
  | channel n =>
    simp only [DeviceAddress.wf, decide_eq_true_eq] at h
    rw [DeviceAddress.encode, byte_ofNat_toNat (by omega)]
    omega
  | broadcast => decide

end Sys2Proof
end

