-- ==== Sys2Proof/Laws/Decode.lean ====
section
/-! SUPPORT. For each reader of the decoder, when it answers a value and what that says of the bytes. -/

namespace Sys2Proof

@[simp] theorem except_ok_bind {ε α β : Type} (a : α) (f : α → Except ε β) : (Except.ok a >>= f) = f a := rfl

@[simp] theorem except_error_bind {ε α β : Type} (e : ε) (f : α → Except ε β) :
    ((Except.error e : Except ε α) >>= f) = .error e := rfl

/-- A sequence of readers answers a value exactly when each does. -/
theorem except_bind_ok {ε α β : Type} {x : Except ε α} {f : α → Except ε β} {b : β} :
    (x >>= f) = .ok b ↔ ∃ a, x = .ok a ∧ f a = .ok b := by
  cases x <;> simp

theorem expect_ok {c : Byte} {bs rest : List Byte} : expect c bs = .ok rest ↔ bs = c :: rest := by
  cases bs with
  | nil => simp [expect]
  | cons v bs =>
    simp only [expect]
    split
    · rename_i h
      simp [h]
    · rename_i h
      simp [h]

theorem expectAll_ok {cs bs rest : List Byte} : expectAll cs bs = .ok rest ↔ bs = cs ++ rest := by
  induction cs generalizing bs with
  | nil => simp [expectAll]
  | cons c cs ih => simp [expectAll, except_bind_ok, expect_ok, ih]

theorem expectHeader_ok {bs rest : List Byte} : expectHeader bs = .ok rest ↔ bs = header ++ rest := expectAll_ok

theorem readAddress_ok {bs rest : List Byte} {a : DeviceAddress} :
    readAddress bs = .ok (a, rest) ↔ ∃ v, bs = v :: rest ∧ addressDecodeByte v = some a := by
  cases bs with
  | nil => simp [readAddress]
  | cons v bs =>
    simp only [readAddress]
    cases h : addressDecodeByte v <;> simp [h, and_comm, eq_comm]

theorem readByte_ok {bs rest : List Byte} {v : Byte} : readByte bs = .ok (v, rest) ↔ bs = v :: rest := by
  cases bs <;> simp [readByte]

theorem expectEnd_ok {bs : List Byte} {u : Unit} : expectEnd bs = .ok u ↔ bs = [eox] := by
  match bs with
  | [] => simp [expectEnd]
  | [v] => simp [expectEnd]
  | _ :: _ :: _ => simp [expectEnd]

theorem readField_ok {d : Domain} {bs rest : List Byte} {f : FieldValue} :
    readField d bs = .ok (f, rest) ↔ ∃ v, bs = v :: rest ∧ d.decodeByte v = some f := by
  cases bs with
  | nil => simp [readField]
  | cons v bs =>
    simp only [readField]
    cases h : d.decodeByte v <;> simp [h, and_comm, eq_comm]

theorem readPlaceholder_ok {bs rest : List Byte} : readPlaceholder bs = .ok rest ↔ ∃ v, bs = v :: rest := by
  cases bs <;> simp [readPlaceholder, placeholderDecodeByte]

/-- A payload read has the shape asked for, is well formed, and took its bytes. -/
theorem readPayload_ok {sh : Shape} {bs rest : List Byte} {p : Payload} (h : readPayload sh bs = .ok (p, rest)) :
    p.shape = sh ∧ p.wf = true ∧ ∃ pre, bs = pre ++ rest ∧ pre.length + 1 = p.entryLength := by
  cases sh with
  | unit =>
    simp only [readPayload, except_bind_ok, readPlaceholder_ok, Except.ok.injEq, Prod.mk.injEq] at h
    obtain ⟨r, ⟨v, rfl⟩, rfl, rfl⟩ := h
    exact ⟨rfl, rfl, [v], rfl, rfl⟩
  | one d =>
    simp only [readPayload, except_bind_ok, Prod.exists, readField_ok, Except.ok.injEq, Prod.mk.injEq] at h
    obtain ⟨f, r, ⟨v, rfl, hv⟩, rfl, rfl⟩ := h
    exact ⟨congrArg Shape.one (Domain.decodeByte_domain hv), Domain.decodeByte_wf hv, [v], rfl, rfl⟩
  | pair d1 d2 =>
    simp only [readPayload, except_bind_ok, Prod.exists, readField_ok, Except.ok.injEq, Prod.mk.injEq] at h
    obtain ⟨f1, r1, ⟨v1, rfl, hv1⟩, f2, r2, ⟨v2, rfl, hv2⟩, rfl, rfl⟩ := h
    refine ⟨?_, ?_, [v1, v2], rfl, rfl⟩
    · simp only [Payload.shape, Domain.decodeByte_domain hv1, Domain.decodeByte_domain hv2]
    · simp only [Payload.wf, Domain.decodeByte_wf hv1, Domain.decodeByte_wf hv2, Bool.and_self]

/-- An entry read names the slot of its opcode byte and carries a payload of that slot's shape. -/
theorem readParameter_ok {c : Config} {bs rest : List Byte} {pv : ParameterValue}
    (h : readParameter c bs = .ok (pv, rest)) :
    ∃ op e r, bs = op :: r ∧ c.slotAt op = some e ∧ readPayload e.shape r = .ok (pv.payload, rest) ∧
      pv.name = e.name := by
  cases bs with
  | nil => simp [readParameter] at h
  | cons op r =>
    simp only [readParameter] at h
    cases he : c.slotAt op with
    | none => simp [he] at h
    | some e =>
      simp only [he, except_bind_ok, Prod.exists, Except.ok.injEq, Prod.mk.injEq] at h
      obtain ⟨p, r', hp, rfl, rfl⟩ := h
      exact ⟨op, e, r, rfl, he, hp, rfl⟩

/-- An entry read from an admissible table is a value of type ParameterValue, and took its bytes. -/
theorem readParameter_wf {c : Config} {bs rest : List Byte} {pv : ParameterValue} (hc : c.Admissible)
    (h : readParameter c bs = .ok (pv, rest)) :
    pv.wf c = true ∧ ∃ pre, bs = pre ++ rest ∧ pre.length = pv.payload.entryLength := by
  obtain ⟨op, e, r, rfl, he, hp, hn⟩ := readParameter_ok h
  obtain ⟨hs, hw, pre, rfl, hl⟩ := readPayload_ok hp
  refine ⟨?_, op :: pre, rfl, by simpa using hl⟩
  simp [ParameterValue.wf, hn, (Config.opcodeOf_of_slotAt hc he).2, hs, hw]

/-- A version string is read from exactly its bytes and the terminator. -/
theorem readVersionString_ok {bs s : List Byte} :
    readVersionString bs = .ok s ↔ bs = s ++ [eox] ∧ ∀ b ∈ s, b.toNat < 0x80 := by
  induction bs generalizing s with
  | nil => simp [readVersionString]
  | cons v bs ih =>
    simp only [readVersionString]
    split
    · rename_i hv
      subst hv
      cases bs with
      | nil =>
        simp only [Except.ok.injEq]
        constructor
        · rintro rfl
          simp
        · rintro ⟨h, hs⟩
          cases s with
          | nil => rfl
          | cons b s => simp at h
      | cons w bs =>
        simp only [reduceCtorEq, false_iff, not_and]
        intro h
        cases s with
        | nil => simp at h
        | cons b s =>
          simp only [List.cons_append, List.cons.injEq] at h
          obtain ⟨rfl, -⟩ := h
          simp
    · rename_i hv
      split
      · rename_i h80
        simp only [reduceCtorEq, false_iff, not_and]
        intro h
        cases s with
        | nil => simp_all
        | cons b s =>
          simp only [List.cons_append, List.cons.injEq] at h
          obtain ⟨rfl, -⟩ := h
          intro hs
          have := hs v (by simp)
          omega
      · rename_i h80
        simp only [except_bind_ok, ih, Except.ok.injEq]
        constructor
        · rintro ⟨r, ⟨rfl, hr⟩, rfl⟩
          refine ⟨rfl, ?_⟩
          intro b hb
          rcases List.mem_cons.1 hb with rfl | hb
          · omega
          · exact hr b hb
        · rintro ⟨h, hs⟩
          cases s with
          | nil =>
            simp only [List.nil_append, List.cons.injEq] at h
            exact absurd h.1 hv
          | cons b s =>
            simp only [List.cons_append, List.cons.injEq] at h
            obtain ⟨rfl, rfl⟩ := h
            exact ⟨s, ⟨rfl, fun b hb => hs b (by simp [hb])⟩, rfl⟩

/-! ## The arms of the kind dispatch (R185) -/

section
variable (c : Config) (a : DeviceAddress) (bs : List Byte)

theorem decodeKind_set : decodeKind c a 0x0A#8 bs = (do
    let (pv, rest) ← readParameter c bs
    expectEnd rest
    .ok (.setParameter a pv)) := rfl

theorem decodeKind_restore : decodeKind c a 0x0B#8 bs = (do
    expectEnd bs
    .ok (.restoreParameter a)) := rfl

theorem decodeKind_requestVersion : decodeKind c a 0x73#8 bs = (do
    expectEnd bs
    .ok (.requestVersion a)) := rfl

theorem decodeKind_reportVersion : decodeKind c a 0x74#8 bs = (do
    let rest ← expectVersion bs
    let s ← readVersionString rest
    .ok (.reportVersion a s)) := rfl

theorem decodeKind_update : decodeKind c a 0x5A#8 bs = (do
    let rest1 ← expectVersion bs
    let (pv, rest2) ← readParameter c rest1
    expectEnd rest2
    .ok (.parameterUpdate a pv)) := rfl

end

/-- R185: the dispatch answers a message only for the five kinds, by the arm of its kind. -/
theorem decodeKind_ok {c : Config} {a : DeviceAddress} {k : Byte} {bs : List Byte} {m : Message}
    (h : decodeKind c a k bs = .ok m) :
    (∃ pv, k = kSet ∧ readParameter c bs = .ok (pv, [eox]) ∧ m = .setParameter a pv) ∨
    (k = kRestore ∧ bs = [eox] ∧ m = .restoreParameter a) ∨
    (k = kReqVer ∧ bs = [eox] ∧ m = .requestVersion a) ∨
    (∃ s, k = kRepVer ∧ bs = version :: s ++ [eox] ∧ (∀ b ∈ s, b.toNat < 0x80) ∧ m = .reportVersion a s) ∨
    (∃ pv r, k = kUpdate ∧ bs = version :: r ∧ readParameter c r = .ok (pv, [eox]) ∧ m = .parameterUpdate a pv) := by
  simp only [decodeKind] at h
  split at h
  · simp only [except_bind_ok, Prod.exists, expectEnd_ok, Except.ok.injEq] at h
    obtain ⟨pv, r, hr, _, rfl, rfl⟩ := h
    exact .inl ⟨pv, by assumption, hr, rfl⟩
  split at h
  · simp only [except_bind_ok, expectEnd_ok, Except.ok.injEq] at h
    obtain ⟨_, rfl, rfl⟩ := h
    exact .inr (.inl ⟨by assumption, rfl, rfl⟩)
  split at h
  · simp only [except_bind_ok, expectEnd_ok, Except.ok.injEq] at h
    obtain ⟨_, rfl, rfl⟩ := h
    exact .inr (.inr (.inl ⟨by assumption, rfl, rfl⟩))
  split at h
  · simp only [expectVersion, except_bind_ok, expect_ok, readVersionString_ok, Except.ok.injEq] at h
    obtain ⟨r, rfl, s, ⟨rfl, hs⟩, rfl⟩ := h
    exact .inr (.inr (.inr (.inl ⟨s, by assumption, rfl, hs, rfl⟩)))
  split at h
  · simp only [expectVersion, except_bind_ok, expect_ok, Prod.exists, expectEnd_ok, Except.ok.injEq] at h
    obtain ⟨r, rfl, pv, _, hr, _, rfl, rfl⟩ := h
    exact .inr (.inr (.inr (.inr ⟨pv, r, by assumption, rfl, hr, rfl⟩)))
  · simp at h

/-- R193: a frame that decodes is the header, an address byte, a kind byte and what the kind's arm reads. -/
theorem decodeMessage_ok {c : Config} {bs : List Byte} {m : Message} (h : decodeMessage c bs = .ok m) :
    ∃ v k r a, bs = header ++ v :: k :: r ∧ addressDecodeByte v = some a ∧ decodeKind c a k r = .ok m := by
  simp only [decodeMessage, except_bind_ok, expectHeader_ok, Prod.exists, readAddress_ok, readByte_ok] at h
  obtain ⟨_, rfl, a, _, ⟨v, rfl, ha⟩, k, r, rfl, hk⟩ := h
  exact ⟨v, k, r, a, rfl, ha, hk⟩

end Sys2Proof
end

