-- ==== Sys2Proof/Laws/Memory.lean ====
section
/-! SUPPORT. The laws of the byte buffers: a read after a write, a read after a run of writes, and that writing keeps the
canonical form and the space. -/

namespace Sys2Proof.Machine

@[simp] theorem Memory.read_nil (a : Nat) : Memory.read [] a = none := rfl

theorem Memory.read_write (m : Memory) (a : Nat) (v : Byte) (x : Nat) (h : Memory.wf m) :
    (m.write a v).read x = if x = a then some v else m.read x := by
  induction m with
  | nil => simp [Memory.write, Memory.read, eq_comm]
  | cons c m ih =>
    obtain ⟨y, b⟩ := c
    have hm : Memory.wf m := by
      simp only [Memory.wf, List.map_cons, List.pairwise_cons] at h
      exact h.2
    simp only [Memory.write]
    by_cases hx : x = a
    · subst hx
      split
      · simp [Memory.read]
      · split
        · simp [Memory.read]
        · have hy : y ≠ x := by omega
          simp [Memory.read, ih hm, hy]
    · have hx' : a ≠ x := fun e => hx e.symm
      split
      · simp [Memory.read, hx']
      · split
        · rename_i he
          subst he
          simp [Memory.read, hx']
        · simp [Memory.read, ih hm, hx]

/-- A byte reads back as it was written. -/
theorem Memory.read_write_same (m : Memory) (a : Nat) (v : Byte) (h : Memory.wf m) : (m.write a v).read a = some v := by
  simp [Memory.read_write m a v a h]

/-- A write leaves every other byte alone. -/
theorem Memory.read_write_other (m : Memory) (a : Nat) (v : Byte) (x : Nat) (h : Memory.wf m) (hx : x ≠ a) :
    (m.write a v).read x = m.read x := by
  simp [Memory.read_write m a v x h, hx]

theorem Memory.mem_write {m : Memory} {a : Nat} {v : Byte} {c : Host.Cell} (h : c ∈ m.write a v) :
    c = (a, v) ∨ c ∈ m := by
  induction m with
  | nil => simpa [Memory.write] using h
  | cons d m ih =>
    obtain ⟨y, b⟩ := d
    simp only [Memory.write] at h
    split at h
    · simpa using h
    · split at h
      · simp only [List.mem_cons] at h ⊢
        tauto
      · simp only [List.mem_cons] at h ⊢
        rcases h with h | h
        · exact .inr (.inl h)
        · exact (ih h).imp id .inr

/-- Writing keeps the canonical form. -/
theorem Memory.write_wf (m : Memory) (a : Nat) (v : Byte) (h : Memory.wf m) : Memory.wf (m.write a v) := by
  induction m with
  | nil => simp [Memory.write, Memory.wf]
  | cons d m ih =>
    obtain ⟨y, b⟩ := d
    have h' := h
    simp only [Memory.wf, List.map_cons, List.pairwise_cons] at h'
    simp only [Memory.write]
    split
    · rename_i hlt
      simp only [Memory.wf, List.map_cons, List.pairwise_cons]
      refine ⟨?_, h'⟩
      intro z hz
      rcases List.mem_cons.1 hz with rfl | hz
      · exact hlt
      · exact Nat.lt_trans hlt (h'.1 z hz)
    · split
      · rename_i he
        subst he
        simpa only [Memory.wf, List.map_cons, List.pairwise_cons] using h'
      · simp only [Memory.wf, List.map_cons, List.pairwise_cons]
        refine ⟨?_, ih h'.2⟩
        intro z hz
        obtain ⟨c, hc, rfl⟩ := List.mem_map.1 hz
        rcases Memory.mem_write hc with rfl | hc
        · simp only
          omega
        · exact h'.1 _ (List.mem_map_of_mem hc)

/-- Writing inside the space keeps the buffer inside it. -/
theorem Memory.write_within (m : Memory) (a : Nat) (v : Byte) (n : Nat) (h : Memory.within m n) (ha : a < n) :
    Memory.within (m.write a v) n := by
  intro c hc
  rcases Memory.mem_write hc with rfl | hc
  · exact ha
  · exact h c hc

theorem Memory.writeAll_wf (bs : List Byte) (m : Memory) (a : Nat) (h : Memory.wf m) : Memory.wf (m.writeAll a bs) := by
  induction bs generalizing m a with
  | nil => exact h
  | cons v bs ih => exact ih _ _ (Memory.write_wf m a v h)

theorem Memory.writeAll_within (bs : List Byte) (m : Memory) (a n : Nat) (h : Memory.within m n)
    (ha : a + bs.length ≤ n) : Memory.within (m.writeAll a bs) n := by
  induction bs generalizing m a with
  | nil => exact h
  | cons v bs ih =>
    simp only [List.length_cons] at ha
    exact ih _ _ (Memory.write_within m a v n h (by omega)) (by omega)

/-- After a run of writes, an address of the run reads its byte and every other address reads as before. -/
theorem Memory.read_writeAll (bs : List Byte) (m : Memory) (a x : Nat) (h : Memory.wf m) :
    (m.writeAll a bs).read x = if a ≤ x ∧ x < a + bs.length then bs[x - a]? else m.read x := by
  induction bs generalizing m a with
  | nil =>
    simp only [Memory.writeAll, List.length_nil]
    split
    · omega
    · rfl
  | cons v bs ih =>
    rw [Memory.writeAll, ih _ _ (Memory.write_wf m a v h), Memory.read_write m a v x h]
    simp only [List.length_cons]
    by_cases hx : x = a
    · subst hx
      rw [if_neg (by omega), if_pos rfl, if_pos (by omega)]
      simp
    · by_cases hin : a + 1 ≤ x ∧ x < a + 1 + bs.length
      · rw [if_pos hin, if_pos (by omega)]
        obtain ⟨k, rfl⟩ : ∃ k, x = a + 1 + k := ⟨x - (a + 1), by omega⟩
        have e1 : a + 1 + k - (a + 1) = k := by omega
        have e2 : a + 1 + k - a = k + 1 := by omega
        rw [e1, e2, List.getElem?_cons_succ]
      · rw [if_neg hin, if_neg hx, if_neg (by omega)]

end Sys2Proof.Machine
end

