-- ==== Sys2Proof/Laws/State.lean ====
section
/-! SUPPORT. What each update of State leaves in each field: one lemma for each, true by rfl. -/

namespace Sys2Proof.Machine

section
variable (s : State)

/-! ### advance -/

@[simp] theorem State.advance_cfg (n : Nat) : (s.advance n).cfg = s.cfg := rfl
@[simp] theorem State.advance_inBuf (n : Nat) : (s.advance n).inBuf = s.inBuf := rfl
@[simp] theorem State.advance_inLen (n : Nat) : (s.advance n).inLen = s.inLen := rfl
@[simp] theorem State.advance_phase (n : Nat) : (s.advance n).phase = s.phase := rfl
@[simp] theorem State.advance_p (n : Nat) : (s.advance n).p = s.p + n := rfl
@[simp] theorem State.advance_addr (n : Nat) : (s.advance n).addr = s.addr := rfl
@[simp] theorem State.advance_kind (n : Nat) : (s.advance n).kind = s.kind := rfl
@[simp] theorem State.advance_pop (n : Nat) : (s.advance n).pop = s.pop := rfl
@[simp] theorem State.advance_fv1 (n : Nat) : (s.advance n).fv1 = s.fv1 := rfl
@[simp] theorem State.advance_fv2 (n : Nat) : (s.advance n).fv2 = s.fv2 := rfl
@[simp] theorem State.advance_vstr (n : Nat) : (s.advance n).vstr = s.vstr := rfl
@[simp] theorem State.advance_dstatus (n : Nat) : (s.advance n).dstatus = s.dstatus := rfl
@[simp] theorem State.advance_derr (n : Nat) : (s.advance n).derr = s.derr := rfl
@[simp] theorem State.advance_dmsg (n : Nat) : (s.advance n).dmsg = s.dmsg := rfl
@[simp] theorem State.advance_emsg (n : Nat) : (s.advance n).emsg = s.emsg := rfl
@[simp] theorem State.advance_estatus (n : Nat) : (s.advance n).estatus = s.estatus := rfl
@[simp] theorem State.advance_eidx (n : Nat) : (s.advance n).eidx = s.eidx := rfl
@[simp] theorem State.advance_outBuf (n : Nat) : (s.advance n).outBuf = s.outBuf := rfl
@[simp] theorem State.advance_outLen (n : Nat) : (s.advance n).outLen = s.outLen := rfl
@[simp] theorem State.advance_turn (n : Nat) : (s.advance n).turn = s.turn := rfl
@[simp] theorem State.advance_inputs (n : Nat) : (s.advance n).inputs = s.inputs := rfl
@[simp] theorem State.advance_port (n : Nat) : (s.advance n).port = s.port := rfl
@[simp] theorem State.advance_epoch (n : Nat) : (s.advance n).epoch = s.epoch := rfl

/-! ### goto -/

@[simp] theorem State.goto_cfg (ph : Phase) : (s.goto ph).cfg = s.cfg := rfl
@[simp] theorem State.goto_inBuf (ph : Phase) : (s.goto ph).inBuf = s.inBuf := rfl
@[simp] theorem State.goto_inLen (ph : Phase) : (s.goto ph).inLen = s.inLen := rfl
@[simp] theorem State.goto_phase (ph : Phase) : (s.goto ph).phase = ph := rfl
@[simp] theorem State.goto_p (ph : Phase) : (s.goto ph).p = s.p := rfl
@[simp] theorem State.goto_addr (ph : Phase) : (s.goto ph).addr = s.addr := rfl
@[simp] theorem State.goto_kind (ph : Phase) : (s.goto ph).kind = s.kind := rfl
@[simp] theorem State.goto_pop (ph : Phase) : (s.goto ph).pop = s.pop := rfl
@[simp] theorem State.goto_fv1 (ph : Phase) : (s.goto ph).fv1 = s.fv1 := rfl
@[simp] theorem State.goto_fv2 (ph : Phase) : (s.goto ph).fv2 = s.fv2 := rfl
@[simp] theorem State.goto_vstr (ph : Phase) : (s.goto ph).vstr = s.vstr := rfl
@[simp] theorem State.goto_dstatus (ph : Phase) : (s.goto ph).dstatus = s.dstatus := rfl
@[simp] theorem State.goto_derr (ph : Phase) : (s.goto ph).derr = s.derr := rfl
@[simp] theorem State.goto_dmsg (ph : Phase) : (s.goto ph).dmsg = s.dmsg := rfl
@[simp] theorem State.goto_emsg (ph : Phase) : (s.goto ph).emsg = s.emsg := rfl
@[simp] theorem State.goto_estatus (ph : Phase) : (s.goto ph).estatus = s.estatus := rfl
@[simp] theorem State.goto_eidx (ph : Phase) : (s.goto ph).eidx = s.eidx := rfl
@[simp] theorem State.goto_outBuf (ph : Phase) : (s.goto ph).outBuf = s.outBuf := rfl
@[simp] theorem State.goto_outLen (ph : Phase) : (s.goto ph).outLen = s.outLen := rfl
@[simp] theorem State.goto_turn (ph : Phase) : (s.goto ph).turn = s.turn := rfl
@[simp] theorem State.goto_inputs (ph : Phase) : (s.goto ph).inputs = s.inputs := rfl
@[simp] theorem State.goto_port (ph : Phase) : (s.goto ph).port = s.port := rfl
@[simp] theorem State.goto_epoch (ph : Phase) : (s.goto ph).epoch = s.epoch := rfl

/-! ### captureAddr -/

@[simp] theorem State.captureAddr_cfg (a : DeviceAddress) : (s.captureAddr a).cfg = s.cfg := rfl
@[simp] theorem State.captureAddr_inBuf (a : DeviceAddress) : (s.captureAddr a).inBuf = s.inBuf := rfl
@[simp] theorem State.captureAddr_inLen (a : DeviceAddress) : (s.captureAddr a).inLen = s.inLen := rfl
@[simp] theorem State.captureAddr_phase (a : DeviceAddress) : (s.captureAddr a).phase = s.phase := rfl
@[simp] theorem State.captureAddr_p (a : DeviceAddress) : (s.captureAddr a).p = s.p := rfl
@[simp] theorem State.captureAddr_addr (a : DeviceAddress) : (s.captureAddr a).addr = some a := rfl
@[simp] theorem State.captureAddr_kind (a : DeviceAddress) : (s.captureAddr a).kind = s.kind := rfl
@[simp] theorem State.captureAddr_pop (a : DeviceAddress) : (s.captureAddr a).pop = s.pop := rfl
@[simp] theorem State.captureAddr_fv1 (a : DeviceAddress) : (s.captureAddr a).fv1 = s.fv1 := rfl
@[simp] theorem State.captureAddr_fv2 (a : DeviceAddress) : (s.captureAddr a).fv2 = s.fv2 := rfl
@[simp] theorem State.captureAddr_vstr (a : DeviceAddress) : (s.captureAddr a).vstr = s.vstr := rfl
@[simp] theorem State.captureAddr_dstatus (a : DeviceAddress) : (s.captureAddr a).dstatus = s.dstatus := rfl
@[simp] theorem State.captureAddr_derr (a : DeviceAddress) : (s.captureAddr a).derr = s.derr := rfl
@[simp] theorem State.captureAddr_dmsg (a : DeviceAddress) : (s.captureAddr a).dmsg = s.dmsg := rfl
@[simp] theorem State.captureAddr_emsg (a : DeviceAddress) : (s.captureAddr a).emsg = s.emsg := rfl
@[simp] theorem State.captureAddr_estatus (a : DeviceAddress) : (s.captureAddr a).estatus = s.estatus := rfl
@[simp] theorem State.captureAddr_eidx (a : DeviceAddress) : (s.captureAddr a).eidx = s.eidx := rfl
@[simp] theorem State.captureAddr_outBuf (a : DeviceAddress) : (s.captureAddr a).outBuf = s.outBuf := rfl
@[simp] theorem State.captureAddr_outLen (a : DeviceAddress) : (s.captureAddr a).outLen = s.outLen := rfl
@[simp] theorem State.captureAddr_turn (a : DeviceAddress) : (s.captureAddr a).turn = s.turn := rfl
@[simp] theorem State.captureAddr_inputs (a : DeviceAddress) : (s.captureAddr a).inputs = s.inputs := rfl
@[simp] theorem State.captureAddr_port (a : DeviceAddress) : (s.captureAddr a).port = s.port := rfl
@[simp] theorem State.captureAddr_epoch (a : DeviceAddress) : (s.captureAddr a).epoch = s.epoch := rfl

/-! ### captureKind -/

@[simp] theorem State.captureKind_cfg (k : Byte) : (s.captureKind k).cfg = s.cfg := rfl
@[simp] theorem State.captureKind_inBuf (k : Byte) : (s.captureKind k).inBuf = s.inBuf := rfl
@[simp] theorem State.captureKind_inLen (k : Byte) : (s.captureKind k).inLen = s.inLen := rfl
@[simp] theorem State.captureKind_phase (k : Byte) : (s.captureKind k).phase = s.phase := rfl
@[simp] theorem State.captureKind_p (k : Byte) : (s.captureKind k).p = s.p := rfl
@[simp] theorem State.captureKind_addr (k : Byte) : (s.captureKind k).addr = s.addr := rfl
@[simp] theorem State.captureKind_kind (k : Byte) : (s.captureKind k).kind = some k := rfl
@[simp] theorem State.captureKind_pop (k : Byte) : (s.captureKind k).pop = s.pop := rfl
@[simp] theorem State.captureKind_fv1 (k : Byte) : (s.captureKind k).fv1 = s.fv1 := rfl
@[simp] theorem State.captureKind_fv2 (k : Byte) : (s.captureKind k).fv2 = s.fv2 := rfl
@[simp] theorem State.captureKind_vstr (k : Byte) : (s.captureKind k).vstr = s.vstr := rfl
@[simp] theorem State.captureKind_dstatus (k : Byte) : (s.captureKind k).dstatus = s.dstatus := rfl
@[simp] theorem State.captureKind_derr (k : Byte) : (s.captureKind k).derr = s.derr := rfl
@[simp] theorem State.captureKind_dmsg (k : Byte) : (s.captureKind k).dmsg = s.dmsg := rfl
@[simp] theorem State.captureKind_emsg (k : Byte) : (s.captureKind k).emsg = s.emsg := rfl
@[simp] theorem State.captureKind_estatus (k : Byte) : (s.captureKind k).estatus = s.estatus := rfl
@[simp] theorem State.captureKind_eidx (k : Byte) : (s.captureKind k).eidx = s.eidx := rfl
@[simp] theorem State.captureKind_outBuf (k : Byte) : (s.captureKind k).outBuf = s.outBuf := rfl
@[simp] theorem State.captureKind_outLen (k : Byte) : (s.captureKind k).outLen = s.outLen := rfl
@[simp] theorem State.captureKind_turn (k : Byte) : (s.captureKind k).turn = s.turn := rfl
@[simp] theorem State.captureKind_inputs (k : Byte) : (s.captureKind k).inputs = s.inputs := rfl
@[simp] theorem State.captureKind_port (k : Byte) : (s.captureKind k).port = s.port := rfl
@[simp] theorem State.captureKind_epoch (k : Byte) : (s.captureKind k).epoch = s.epoch := rfl

/-! ### capturePop -/

@[simp] theorem State.capturePop_cfg (op : Byte) : (s.capturePop op).cfg = s.cfg := rfl
@[simp] theorem State.capturePop_inBuf (op : Byte) : (s.capturePop op).inBuf = s.inBuf := rfl
@[simp] theorem State.capturePop_inLen (op : Byte) : (s.capturePop op).inLen = s.inLen := rfl
@[simp] theorem State.capturePop_phase (op : Byte) : (s.capturePop op).phase = s.phase := rfl
@[simp] theorem State.capturePop_p (op : Byte) : (s.capturePop op).p = s.p := rfl
@[simp] theorem State.capturePop_addr (op : Byte) : (s.capturePop op).addr = s.addr := rfl
@[simp] theorem State.capturePop_kind (op : Byte) : (s.capturePop op).kind = s.kind := rfl
@[simp] theorem State.capturePop_pop (op : Byte) : (s.capturePop op).pop = some op := rfl
@[simp] theorem State.capturePop_fv1 (op : Byte) : (s.capturePop op).fv1 = s.fv1 := rfl
@[simp] theorem State.capturePop_fv2 (op : Byte) : (s.capturePop op).fv2 = s.fv2 := rfl
@[simp] theorem State.capturePop_vstr (op : Byte) : (s.capturePop op).vstr = s.vstr := rfl
@[simp] theorem State.capturePop_dstatus (op : Byte) : (s.capturePop op).dstatus = s.dstatus := rfl
@[simp] theorem State.capturePop_derr (op : Byte) : (s.capturePop op).derr = s.derr := rfl
@[simp] theorem State.capturePop_dmsg (op : Byte) : (s.capturePop op).dmsg = s.dmsg := rfl
@[simp] theorem State.capturePop_emsg (op : Byte) : (s.capturePop op).emsg = s.emsg := rfl
@[simp] theorem State.capturePop_estatus (op : Byte) : (s.capturePop op).estatus = s.estatus := rfl
@[simp] theorem State.capturePop_eidx (op : Byte) : (s.capturePop op).eidx = s.eidx := rfl
@[simp] theorem State.capturePop_outBuf (op : Byte) : (s.capturePop op).outBuf = s.outBuf := rfl
@[simp] theorem State.capturePop_outLen (op : Byte) : (s.capturePop op).outLen = s.outLen := rfl
@[simp] theorem State.capturePop_turn (op : Byte) : (s.capturePop op).turn = s.turn := rfl
@[simp] theorem State.capturePop_inputs (op : Byte) : (s.capturePop op).inputs = s.inputs := rfl
@[simp] theorem State.capturePop_port (op : Byte) : (s.capturePop op).port = s.port := rfl
@[simp] theorem State.capturePop_epoch (op : Byte) : (s.capturePop op).epoch = s.epoch := rfl

/-! ### captureFv1 -/

@[simp] theorem State.captureFv1_cfg (f : FieldValue) : (s.captureFv1 f).cfg = s.cfg := rfl
@[simp] theorem State.captureFv1_inBuf (f : FieldValue) : (s.captureFv1 f).inBuf = s.inBuf := rfl
@[simp] theorem State.captureFv1_inLen (f : FieldValue) : (s.captureFv1 f).inLen = s.inLen := rfl
@[simp] theorem State.captureFv1_phase (f : FieldValue) : (s.captureFv1 f).phase = s.phase := rfl
@[simp] theorem State.captureFv1_p (f : FieldValue) : (s.captureFv1 f).p = s.p := rfl
@[simp] theorem State.captureFv1_addr (f : FieldValue) : (s.captureFv1 f).addr = s.addr := rfl
@[simp] theorem State.captureFv1_kind (f : FieldValue) : (s.captureFv1 f).kind = s.kind := rfl
@[simp] theorem State.captureFv1_pop (f : FieldValue) : (s.captureFv1 f).pop = s.pop := rfl
@[simp] theorem State.captureFv1_fv1 (f : FieldValue) : (s.captureFv1 f).fv1 = some f := rfl
@[simp] theorem State.captureFv1_fv2 (f : FieldValue) : (s.captureFv1 f).fv2 = s.fv2 := rfl
@[simp] theorem State.captureFv1_vstr (f : FieldValue) : (s.captureFv1 f).vstr = s.vstr := rfl
@[simp] theorem State.captureFv1_dstatus (f : FieldValue) : (s.captureFv1 f).dstatus = s.dstatus := rfl
@[simp] theorem State.captureFv1_derr (f : FieldValue) : (s.captureFv1 f).derr = s.derr := rfl
@[simp] theorem State.captureFv1_dmsg (f : FieldValue) : (s.captureFv1 f).dmsg = s.dmsg := rfl
@[simp] theorem State.captureFv1_emsg (f : FieldValue) : (s.captureFv1 f).emsg = s.emsg := rfl
@[simp] theorem State.captureFv1_estatus (f : FieldValue) : (s.captureFv1 f).estatus = s.estatus := rfl
@[simp] theorem State.captureFv1_eidx (f : FieldValue) : (s.captureFv1 f).eidx = s.eidx := rfl
@[simp] theorem State.captureFv1_outBuf (f : FieldValue) : (s.captureFv1 f).outBuf = s.outBuf := rfl
@[simp] theorem State.captureFv1_outLen (f : FieldValue) : (s.captureFv1 f).outLen = s.outLen := rfl
@[simp] theorem State.captureFv1_turn (f : FieldValue) : (s.captureFv1 f).turn = s.turn := rfl
@[simp] theorem State.captureFv1_inputs (f : FieldValue) : (s.captureFv1 f).inputs = s.inputs := rfl
@[simp] theorem State.captureFv1_port (f : FieldValue) : (s.captureFv1 f).port = s.port := rfl
@[simp] theorem State.captureFv1_epoch (f : FieldValue) : (s.captureFv1 f).epoch = s.epoch := rfl

/-! ### captureFv2 -/

@[simp] theorem State.captureFv2_cfg (f : FieldValue) : (s.captureFv2 f).cfg = s.cfg := rfl
@[simp] theorem State.captureFv2_inBuf (f : FieldValue) : (s.captureFv2 f).inBuf = s.inBuf := rfl
@[simp] theorem State.captureFv2_inLen (f : FieldValue) : (s.captureFv2 f).inLen = s.inLen := rfl
@[simp] theorem State.captureFv2_phase (f : FieldValue) : (s.captureFv2 f).phase = s.phase := rfl
@[simp] theorem State.captureFv2_p (f : FieldValue) : (s.captureFv2 f).p = s.p := rfl
@[simp] theorem State.captureFv2_addr (f : FieldValue) : (s.captureFv2 f).addr = s.addr := rfl
@[simp] theorem State.captureFv2_kind (f : FieldValue) : (s.captureFv2 f).kind = s.kind := rfl
@[simp] theorem State.captureFv2_pop (f : FieldValue) : (s.captureFv2 f).pop = s.pop := rfl
@[simp] theorem State.captureFv2_fv1 (f : FieldValue) : (s.captureFv2 f).fv1 = s.fv1 := rfl
@[simp] theorem State.captureFv2_fv2 (f : FieldValue) : (s.captureFv2 f).fv2 = some f := rfl
@[simp] theorem State.captureFv2_vstr (f : FieldValue) : (s.captureFv2 f).vstr = s.vstr := rfl
@[simp] theorem State.captureFv2_dstatus (f : FieldValue) : (s.captureFv2 f).dstatus = s.dstatus := rfl
@[simp] theorem State.captureFv2_derr (f : FieldValue) : (s.captureFv2 f).derr = s.derr := rfl
@[simp] theorem State.captureFv2_dmsg (f : FieldValue) : (s.captureFv2 f).dmsg = s.dmsg := rfl
@[simp] theorem State.captureFv2_emsg (f : FieldValue) : (s.captureFv2 f).emsg = s.emsg := rfl
@[simp] theorem State.captureFv2_estatus (f : FieldValue) : (s.captureFv2 f).estatus = s.estatus := rfl
@[simp] theorem State.captureFv2_eidx (f : FieldValue) : (s.captureFv2 f).eidx = s.eidx := rfl
@[simp] theorem State.captureFv2_outBuf (f : FieldValue) : (s.captureFv2 f).outBuf = s.outBuf := rfl
@[simp] theorem State.captureFv2_outLen (f : FieldValue) : (s.captureFv2 f).outLen = s.outLen := rfl
@[simp] theorem State.captureFv2_turn (f : FieldValue) : (s.captureFv2 f).turn = s.turn := rfl
@[simp] theorem State.captureFv2_inputs (f : FieldValue) : (s.captureFv2 f).inputs = s.inputs := rfl
@[simp] theorem State.captureFv2_port (f : FieldValue) : (s.captureFv2 f).port = s.port := rfl
@[simp] theorem State.captureFv2_epoch (f : FieldValue) : (s.captureFv2 f).epoch = s.epoch := rfl

/-! ### captureString -/

@[simp] theorem State.captureString_cfg (bs : List Byte) : (s.captureString bs).cfg = s.cfg := rfl
@[simp] theorem State.captureString_inBuf (bs : List Byte) : (s.captureString bs).inBuf = s.inBuf := rfl
@[simp] theorem State.captureString_inLen (bs : List Byte) : (s.captureString bs).inLen = s.inLen := rfl
@[simp] theorem State.captureString_phase (bs : List Byte) : (s.captureString bs).phase = s.phase := rfl
@[simp] theorem State.captureString_p (bs : List Byte) : (s.captureString bs).p = s.p := rfl
@[simp] theorem State.captureString_addr (bs : List Byte) : (s.captureString bs).addr = s.addr := rfl
@[simp] theorem State.captureString_kind (bs : List Byte) : (s.captureString bs).kind = s.kind := rfl
@[simp] theorem State.captureString_pop (bs : List Byte) : (s.captureString bs).pop = s.pop := rfl
@[simp] theorem State.captureString_fv1 (bs : List Byte) : (s.captureString bs).fv1 = s.fv1 := rfl
@[simp] theorem State.captureString_fv2 (bs : List Byte) : (s.captureString bs).fv2 = s.fv2 := rfl
@[simp] theorem State.captureString_vstr (bs : List Byte) : (s.captureString bs).vstr = s.vstr ++ bs := rfl
@[simp] theorem State.captureString_dstatus (bs : List Byte) : (s.captureString bs).dstatus = s.dstatus := rfl
@[simp] theorem State.captureString_derr (bs : List Byte) : (s.captureString bs).derr = s.derr := rfl
@[simp] theorem State.captureString_dmsg (bs : List Byte) : (s.captureString bs).dmsg = s.dmsg := rfl
@[simp] theorem State.captureString_emsg (bs : List Byte) : (s.captureString bs).emsg = s.emsg := rfl
@[simp] theorem State.captureString_estatus (bs : List Byte) : (s.captureString bs).estatus = s.estatus := rfl
@[simp] theorem State.captureString_eidx (bs : List Byte) : (s.captureString bs).eidx = s.eidx := rfl
@[simp] theorem State.captureString_outBuf (bs : List Byte) : (s.captureString bs).outBuf = s.outBuf := rfl
@[simp] theorem State.captureString_outLen (bs : List Byte) : (s.captureString bs).outLen = s.outLen := rfl
@[simp] theorem State.captureString_turn (bs : List Byte) : (s.captureString bs).turn = s.turn := rfl
@[simp] theorem State.captureString_inputs (bs : List Byte) : (s.captureString bs).inputs = s.inputs := rfl
@[simp] theorem State.captureString_port (bs : List Byte) : (s.captureString bs).port = s.port := rfl
@[simp] theorem State.captureString_epoch (bs : List Byte) : (s.captureString bs).epoch = s.epoch := rfl

/-! ### setOk -/

@[simp] theorem State.setOk_cfg (m : Message) : (s.setOk m).cfg = s.cfg := rfl
@[simp] theorem State.setOk_inBuf (m : Message) : (s.setOk m).inBuf = s.inBuf := rfl
@[simp] theorem State.setOk_inLen (m : Message) : (s.setOk m).inLen = s.inLen := rfl
@[simp] theorem State.setOk_phase (m : Message) : (s.setOk m).phase = s.phase := rfl
@[simp] theorem State.setOk_p (m : Message) : (s.setOk m).p = s.p := rfl
@[simp] theorem State.setOk_addr (m : Message) : (s.setOk m).addr = s.addr := rfl
@[simp] theorem State.setOk_kind (m : Message) : (s.setOk m).kind = s.kind := rfl
@[simp] theorem State.setOk_pop (m : Message) : (s.setOk m).pop = s.pop := rfl
@[simp] theorem State.setOk_fv1 (m : Message) : (s.setOk m).fv1 = s.fv1 := rfl
@[simp] theorem State.setOk_fv2 (m : Message) : (s.setOk m).fv2 = s.fv2 := rfl
@[simp] theorem State.setOk_vstr (m : Message) : (s.setOk m).vstr = s.vstr := rfl
@[simp] theorem State.setOk_dstatus (m : Message) : (s.setOk m).dstatus = .ok := rfl
@[simp] theorem State.setOk_derr (m : Message) : (s.setOk m).derr = s.derr := rfl
@[simp] theorem State.setOk_dmsg (m : Message) : (s.setOk m).dmsg = some m := rfl
@[simp] theorem State.setOk_emsg (m : Message) : (s.setOk m).emsg = s.emsg := rfl
@[simp] theorem State.setOk_estatus (m : Message) : (s.setOk m).estatus = s.estatus := rfl
@[simp] theorem State.setOk_eidx (m : Message) : (s.setOk m).eidx = s.eidx := rfl
@[simp] theorem State.setOk_outBuf (m : Message) : (s.setOk m).outBuf = s.outBuf := rfl
@[simp] theorem State.setOk_outLen (m : Message) : (s.setOk m).outLen = s.outLen := rfl
@[simp] theorem State.setOk_turn (m : Message) : (s.setOk m).turn = s.turn := rfl
@[simp] theorem State.setOk_inputs (m : Message) : (s.setOk m).inputs = s.inputs := rfl
@[simp] theorem State.setOk_port (m : Message) : (s.setOk m).port = s.port := rfl
@[simp] theorem State.setOk_epoch (m : Message) : (s.setOk m).epoch = s.epoch := rfl

/-! ### setErr -/

@[simp] theorem State.setErr_cfg (e : ErrorKind) : (s.setErr e).cfg = s.cfg := rfl
@[simp] theorem State.setErr_inBuf (e : ErrorKind) : (s.setErr e).inBuf = s.inBuf := rfl
@[simp] theorem State.setErr_inLen (e : ErrorKind) : (s.setErr e).inLen = s.inLen := rfl
@[simp] theorem State.setErr_phase (e : ErrorKind) : (s.setErr e).phase = s.phase := rfl
@[simp] theorem State.setErr_p (e : ErrorKind) : (s.setErr e).p = s.p := rfl
@[simp] theorem State.setErr_addr (e : ErrorKind) : (s.setErr e).addr = s.addr := rfl
@[simp] theorem State.setErr_kind (e : ErrorKind) : (s.setErr e).kind = s.kind := rfl
@[simp] theorem State.setErr_pop (e : ErrorKind) : (s.setErr e).pop = s.pop := rfl
@[simp] theorem State.setErr_fv1 (e : ErrorKind) : (s.setErr e).fv1 = s.fv1 := rfl
@[simp] theorem State.setErr_fv2 (e : ErrorKind) : (s.setErr e).fv2 = s.fv2 := rfl
@[simp] theorem State.setErr_vstr (e : ErrorKind) : (s.setErr e).vstr = s.vstr := rfl
@[simp] theorem State.setErr_dstatus (e : ErrorKind) : (s.setErr e).dstatus = .err := rfl
@[simp] theorem State.setErr_derr (e : ErrorKind) : (s.setErr e).derr = some e := rfl
@[simp] theorem State.setErr_dmsg (e : ErrorKind) : (s.setErr e).dmsg = s.dmsg := rfl
@[simp] theorem State.setErr_emsg (e : ErrorKind) : (s.setErr e).emsg = s.emsg := rfl
@[simp] theorem State.setErr_estatus (e : ErrorKind) : (s.setErr e).estatus = s.estatus := rfl
@[simp] theorem State.setErr_eidx (e : ErrorKind) : (s.setErr e).eidx = s.eidx := rfl
@[simp] theorem State.setErr_outBuf (e : ErrorKind) : (s.setErr e).outBuf = s.outBuf := rfl
@[simp] theorem State.setErr_outLen (e : ErrorKind) : (s.setErr e).outLen = s.outLen := rfl
@[simp] theorem State.setErr_turn (e : ErrorKind) : (s.setErr e).turn = s.turn := rfl
@[simp] theorem State.setErr_inputs (e : ErrorKind) : (s.setErr e).inputs = s.inputs := rfl
@[simp] theorem State.setErr_port (e : ErrorKind) : (s.setErr e).port = s.port := rfl
@[simp] theorem State.setErr_epoch (e : ErrorKind) : (s.setErr e).epoch = s.epoch := rfl

/-! ### raise -/

@[simp] theorem State.raise_cfg (e : ErrorKind) : (s.raise e).cfg = s.cfg := rfl
@[simp] theorem State.raise_inBuf (e : ErrorKind) : (s.raise e).inBuf = s.inBuf := rfl
@[simp] theorem State.raise_inLen (e : ErrorKind) : (s.raise e).inLen = s.inLen := rfl
@[simp] theorem State.raise_phase (e : ErrorKind) : (s.raise e).phase = .done := rfl
@[simp] theorem State.raise_p (e : ErrorKind) : (s.raise e).p = s.p := rfl
@[simp] theorem State.raise_addr (e : ErrorKind) : (s.raise e).addr = s.addr := rfl
@[simp] theorem State.raise_kind (e : ErrorKind) : (s.raise e).kind = s.kind := rfl
@[simp] theorem State.raise_pop (e : ErrorKind) : (s.raise e).pop = s.pop := rfl
@[simp] theorem State.raise_fv1 (e : ErrorKind) : (s.raise e).fv1 = s.fv1 := rfl
@[simp] theorem State.raise_fv2 (e : ErrorKind) : (s.raise e).fv2 = s.fv2 := rfl
@[simp] theorem State.raise_vstr (e : ErrorKind) : (s.raise e).vstr = s.vstr := rfl
@[simp] theorem State.raise_dstatus (e : ErrorKind) : (s.raise e).dstatus = .err := rfl
@[simp] theorem State.raise_derr (e : ErrorKind) : (s.raise e).derr = some e := rfl
@[simp] theorem State.raise_dmsg (e : ErrorKind) : (s.raise e).dmsg = s.dmsg := rfl
@[simp] theorem State.raise_emsg (e : ErrorKind) : (s.raise e).emsg = s.emsg := rfl
@[simp] theorem State.raise_estatus (e : ErrorKind) : (s.raise e).estatus = s.estatus := rfl
@[simp] theorem State.raise_eidx (e : ErrorKind) : (s.raise e).eidx = s.eidx := rfl
@[simp] theorem State.raise_outBuf (e : ErrorKind) : (s.raise e).outBuf = s.outBuf := rfl
@[simp] theorem State.raise_outLen (e : ErrorKind) : (s.raise e).outLen = s.outLen := rfl
@[simp] theorem State.raise_turn (e : ErrorKind) : (s.raise e).turn = s.turn := rfl
@[simp] theorem State.raise_inputs (e : ErrorKind) : (s.raise e).inputs = s.inputs := rfl
@[simp] theorem State.raise_port (e : ErrorKind) : (s.raise e).port = s.port := rfl
@[simp] theorem State.raise_epoch (e : ErrorKind) : (s.raise e).epoch = s.epoch := rfl

/-! ### accept -/

@[simp] theorem State.accept_cfg (m : Message) : (s.accept m).cfg = s.cfg := rfl
@[simp] theorem State.accept_inBuf (m : Message) : (s.accept m).inBuf = s.inBuf := rfl
@[simp] theorem State.accept_inLen (m : Message) : (s.accept m).inLen = s.inLen := rfl
@[simp] theorem State.accept_phase (m : Message) : (s.accept m).phase = .done := rfl
@[simp] theorem State.accept_p (m : Message) : (s.accept m).p = s.p + 1 := rfl
@[simp] theorem State.accept_addr (m : Message) : (s.accept m).addr = s.addr := rfl
@[simp] theorem State.accept_kind (m : Message) : (s.accept m).kind = s.kind := rfl
@[simp] theorem State.accept_pop (m : Message) : (s.accept m).pop = s.pop := rfl
@[simp] theorem State.accept_fv1 (m : Message) : (s.accept m).fv1 = s.fv1 := rfl
@[simp] theorem State.accept_fv2 (m : Message) : (s.accept m).fv2 = s.fv2 := rfl
@[simp] theorem State.accept_vstr (m : Message) : (s.accept m).vstr = s.vstr := rfl
@[simp] theorem State.accept_dstatus (m : Message) : (s.accept m).dstatus = .ok := rfl
@[simp] theorem State.accept_derr (m : Message) : (s.accept m).derr = s.derr := rfl
@[simp] theorem State.accept_dmsg (m : Message) : (s.accept m).dmsg = some m := rfl
@[simp] theorem State.accept_emsg (m : Message) : (s.accept m).emsg = s.emsg := rfl
@[simp] theorem State.accept_estatus (m : Message) : (s.accept m).estatus = s.estatus := rfl
@[simp] theorem State.accept_eidx (m : Message) : (s.accept m).eidx = s.eidx := rfl
@[simp] theorem State.accept_outBuf (m : Message) : (s.accept m).outBuf = s.outBuf := rfl
@[simp] theorem State.accept_outLen (m : Message) : (s.accept m).outLen = s.outLen := rfl
@[simp] theorem State.accept_turn (m : Message) : (s.accept m).turn = s.turn := rfl
@[simp] theorem State.accept_inputs (m : Message) : (s.accept m).inputs = s.inputs := rfl
@[simp] theorem State.accept_port (m : Message) : (s.accept m).port = s.port := rfl
@[simp] theorem State.accept_epoch (m : Message) : (s.accept m).epoch = s.epoch := rfl

/-! ### setDone -/

@[simp] theorem State.setDone_cfg : s.setDone.cfg = s.cfg := rfl
@[simp] theorem State.setDone_inBuf : s.setDone.inBuf = s.inBuf := rfl
@[simp] theorem State.setDone_inLen : s.setDone.inLen = s.inLen := rfl
@[simp] theorem State.setDone_phase : s.setDone.phase = s.phase := rfl
@[simp] theorem State.setDone_p : s.setDone.p = s.p := rfl
@[simp] theorem State.setDone_addr : s.setDone.addr = s.addr := rfl
@[simp] theorem State.setDone_kind : s.setDone.kind = s.kind := rfl
@[simp] theorem State.setDone_pop : s.setDone.pop = s.pop := rfl
@[simp] theorem State.setDone_fv1 : s.setDone.fv1 = s.fv1 := rfl
@[simp] theorem State.setDone_fv2 : s.setDone.fv2 = s.fv2 := rfl
@[simp] theorem State.setDone_vstr : s.setDone.vstr = s.vstr := rfl
@[simp] theorem State.setDone_dstatus : s.setDone.dstatus = s.dstatus := rfl
@[simp] theorem State.setDone_derr : s.setDone.derr = s.derr := rfl
@[simp] theorem State.setDone_dmsg : s.setDone.dmsg = s.dmsg := rfl
@[simp] theorem State.setDone_emsg : s.setDone.emsg = s.emsg := rfl
@[simp] theorem State.setDone_estatus : s.setDone.estatus = .done := rfl
@[simp] theorem State.setDone_eidx : s.setDone.eidx = s.eidx := rfl
@[simp] theorem State.setDone_outBuf : s.setDone.outBuf = s.outBuf := rfl
@[simp] theorem State.setDone_outLen : s.setDone.outLen = some s.eidx := rfl
@[simp] theorem State.setDone_turn : s.setDone.turn = s.turn := rfl
@[simp] theorem State.setDone_inputs : s.setDone.inputs = s.inputs := rfl
@[simp] theorem State.setDone_port : s.setDone.port = s.port := rfl
@[simp] theorem State.setDone_epoch : s.setDone.epoch = s.epoch := rfl

/-! ### beginDecode -/

@[simp] theorem State.beginDecode_cfg : s.beginDecode.cfg = s.cfg := rfl
@[simp] theorem State.beginDecode_inBuf : s.beginDecode.inBuf = s.inBuf := rfl
@[simp] theorem State.beginDecode_inLen : s.beginDecode.inLen = s.inLen := rfl
@[simp] theorem State.beginDecode_phase : s.beginDecode.phase = .h0 := rfl
@[simp] theorem State.beginDecode_p : s.beginDecode.p = 0 := rfl
@[simp] theorem State.beginDecode_addr : s.beginDecode.addr = none := rfl
@[simp] theorem State.beginDecode_kind : s.beginDecode.kind = none := rfl
@[simp] theorem State.beginDecode_pop : s.beginDecode.pop = none := rfl
@[simp] theorem State.beginDecode_fv1 : s.beginDecode.fv1 = none := rfl
@[simp] theorem State.beginDecode_fv2 : s.beginDecode.fv2 = none := rfl
@[simp] theorem State.beginDecode_vstr : s.beginDecode.vstr = [] := rfl
@[simp] theorem State.beginDecode_dstatus : s.beginDecode.dstatus = .busy := rfl
@[simp] theorem State.beginDecode_derr : s.beginDecode.derr = none := rfl
@[simp] theorem State.beginDecode_dmsg : s.beginDecode.dmsg = none := rfl
@[simp] theorem State.beginDecode_emsg : s.beginDecode.emsg = s.emsg := rfl
@[simp] theorem State.beginDecode_estatus : s.beginDecode.estatus = s.estatus := rfl
@[simp] theorem State.beginDecode_eidx : s.beginDecode.eidx = s.eidx := rfl
@[simp] theorem State.beginDecode_outBuf : s.beginDecode.outBuf = s.outBuf := rfl
@[simp] theorem State.beginDecode_outLen : s.beginDecode.outLen = s.outLen := rfl
@[simp] theorem State.beginDecode_turn : s.beginDecode.turn = .decoder := rfl
@[simp] theorem State.beginDecode_inputs : s.beginDecode.inputs = s.inputs := rfl
@[simp] theorem State.beginDecode_port : s.beginDecode.port = s.port := rfl
@[simp] theorem State.beginDecode_epoch : s.beginDecode.epoch = s.epoch := rfl

/-! ### beginEncode -/

@[simp] theorem State.beginEncode_cfg : s.beginEncode.cfg = s.cfg := rfl
@[simp] theorem State.beginEncode_inBuf : s.beginEncode.inBuf = s.inBuf := rfl
@[simp] theorem State.beginEncode_inLen : s.beginEncode.inLen = s.inLen := rfl
@[simp] theorem State.beginEncode_phase : s.beginEncode.phase = s.phase := rfl
@[simp] theorem State.beginEncode_p : s.beginEncode.p = s.p := rfl
@[simp] theorem State.beginEncode_addr : s.beginEncode.addr = s.addr := rfl
@[simp] theorem State.beginEncode_kind : s.beginEncode.kind = s.kind := rfl
@[simp] theorem State.beginEncode_pop : s.beginEncode.pop = s.pop := rfl
@[simp] theorem State.beginEncode_fv1 : s.beginEncode.fv1 = s.fv1 := rfl
@[simp] theorem State.beginEncode_fv2 : s.beginEncode.fv2 = s.fv2 := rfl
@[simp] theorem State.beginEncode_vstr : s.beginEncode.vstr = s.vstr := rfl
@[simp] theorem State.beginEncode_dstatus : s.beginEncode.dstatus = s.dstatus := rfl
@[simp] theorem State.beginEncode_derr : s.beginEncode.derr = s.derr := rfl
@[simp] theorem State.beginEncode_dmsg : s.beginEncode.dmsg = s.dmsg := rfl
@[simp] theorem State.beginEncode_emsg : s.beginEncode.emsg = s.emsg := rfl
@[simp] theorem State.beginEncode_estatus : s.beginEncode.estatus = .busy := rfl
@[simp] theorem State.beginEncode_eidx : s.beginEncode.eidx = 0 := rfl
@[simp] theorem State.beginEncode_outBuf : s.beginEncode.outBuf = s.outBuf := rfl
@[simp] theorem State.beginEncode_outLen : s.beginEncode.outLen = none := rfl
@[simp] theorem State.beginEncode_turn : s.beginEncode.turn = .encoder := rfl
@[simp] theorem State.beginEncode_inputs : s.beginEncode.inputs = s.inputs := rfl
@[simp] theorem State.beginEncode_port : s.beginEncode.port = s.port := rfl
@[simp] theorem State.beginEncode_epoch : s.beginEncode.epoch = s.epoch := rfl

/-! ### takePrefix -/

@[simp] theorem State.takePrefix_cfg (a : DeviceAddress) (k : Byte) : (s.takePrefix a k).cfg = s.cfg := rfl
@[simp] theorem State.takePrefix_inBuf (a : DeviceAddress) (k : Byte) : (s.takePrefix a k).inBuf = s.inBuf := rfl
@[simp] theorem State.takePrefix_inLen (a : DeviceAddress) (k : Byte) : (s.takePrefix a k).inLen = s.inLen := rfl
@[simp] theorem State.takePrefix_phase (a : DeviceAddress) (k : Byte) : (s.takePrefix a k).phase = s.phase := rfl
@[simp] theorem State.takePrefix_p (a : DeviceAddress) (k : Byte) : (s.takePrefix a k).p = s.p + 7 := rfl
@[simp] theorem State.takePrefix_addr (a : DeviceAddress) (k : Byte) : (s.takePrefix a k).addr = some a := rfl
@[simp] theorem State.takePrefix_kind (a : DeviceAddress) (k : Byte) : (s.takePrefix a k).kind = some k := rfl
@[simp] theorem State.takePrefix_pop (a : DeviceAddress) (k : Byte) : (s.takePrefix a k).pop = s.pop := rfl
@[simp] theorem State.takePrefix_fv1 (a : DeviceAddress) (k : Byte) : (s.takePrefix a k).fv1 = s.fv1 := rfl
@[simp] theorem State.takePrefix_fv2 (a : DeviceAddress) (k : Byte) : (s.takePrefix a k).fv2 = s.fv2 := rfl
@[simp] theorem State.takePrefix_vstr (a : DeviceAddress) (k : Byte) : (s.takePrefix a k).vstr = s.vstr := rfl
@[simp] theorem State.takePrefix_dstatus (a : DeviceAddress) (k : Byte) : (s.takePrefix a k).dstatus = s.dstatus := rfl
@[simp] theorem State.takePrefix_derr (a : DeviceAddress) (k : Byte) : (s.takePrefix a k).derr = s.derr := rfl
@[simp] theorem State.takePrefix_dmsg (a : DeviceAddress) (k : Byte) : (s.takePrefix a k).dmsg = s.dmsg := rfl
@[simp] theorem State.takePrefix_emsg (a : DeviceAddress) (k : Byte) : (s.takePrefix a k).emsg = s.emsg := rfl
@[simp] theorem State.takePrefix_estatus (a : DeviceAddress) (k : Byte) : (s.takePrefix a k).estatus = s.estatus := rfl
@[simp] theorem State.takePrefix_eidx (a : DeviceAddress) (k : Byte) : (s.takePrefix a k).eidx = s.eidx := rfl
@[simp] theorem State.takePrefix_outBuf (a : DeviceAddress) (k : Byte) : (s.takePrefix a k).outBuf = s.outBuf := rfl
@[simp] theorem State.takePrefix_outLen (a : DeviceAddress) (k : Byte) : (s.takePrefix a k).outLen = s.outLen := rfl
@[simp] theorem State.takePrefix_turn (a : DeviceAddress) (k : Byte) : (s.takePrefix a k).turn = s.turn := rfl
@[simp] theorem State.takePrefix_inputs (a : DeviceAddress) (k : Byte) : (s.takePrefix a k).inputs = s.inputs := rfl
@[simp] theorem State.takePrefix_port (a : DeviceAddress) (k : Byte) : (s.takePrefix a k).port = s.port := rfl
@[simp] theorem State.takePrefix_epoch (a : DeviceAddress) (k : Byte) : (s.takePrefix a k).epoch = s.epoch := rfl

/-! ### takeString -/

@[simp] theorem State.takeString_cfg (bs : List Byte) : (s.takeString bs).cfg = s.cfg := rfl
@[simp] theorem State.takeString_inBuf (bs : List Byte) : (s.takeString bs).inBuf = s.inBuf := rfl
@[simp] theorem State.takeString_inLen (bs : List Byte) : (s.takeString bs).inLen = s.inLen := rfl
@[simp] theorem State.takeString_phase (bs : List Byte) : (s.takeString bs).phase = s.phase := rfl
@[simp] theorem State.takeString_p (bs : List Byte) : (s.takeString bs).p = s.p + bs.length := rfl
@[simp] theorem State.takeString_addr (bs : List Byte) : (s.takeString bs).addr = s.addr := rfl
@[simp] theorem State.takeString_kind (bs : List Byte) : (s.takeString bs).kind = s.kind := rfl
@[simp] theorem State.takeString_pop (bs : List Byte) : (s.takeString bs).pop = s.pop := rfl
@[simp] theorem State.takeString_fv1 (bs : List Byte) : (s.takeString bs).fv1 = s.fv1 := rfl
@[simp] theorem State.takeString_fv2 (bs : List Byte) : (s.takeString bs).fv2 = s.fv2 := rfl
@[simp] theorem State.takeString_vstr (bs : List Byte) : (s.takeString bs).vstr = s.vstr ++ bs := rfl
@[simp] theorem State.takeString_dstatus (bs : List Byte) : (s.takeString bs).dstatus = s.dstatus := rfl
@[simp] theorem State.takeString_derr (bs : List Byte) : (s.takeString bs).derr = s.derr := rfl
@[simp] theorem State.takeString_dmsg (bs : List Byte) : (s.takeString bs).dmsg = s.dmsg := rfl
@[simp] theorem State.takeString_emsg (bs : List Byte) : (s.takeString bs).emsg = s.emsg := rfl
@[simp] theorem State.takeString_estatus (bs : List Byte) : (s.takeString bs).estatus = s.estatus := rfl
@[simp] theorem State.takeString_eidx (bs : List Byte) : (s.takeString bs).eidx = s.eidx := rfl
@[simp] theorem State.takeString_outBuf (bs : List Byte) : (s.takeString bs).outBuf = s.outBuf := rfl
@[simp] theorem State.takeString_outLen (bs : List Byte) : (s.takeString bs).outLen = s.outLen := rfl
@[simp] theorem State.takeString_turn (bs : List Byte) : (s.takeString bs).turn = s.turn := rfl
@[simp] theorem State.takeString_inputs (bs : List Byte) : (s.takeString bs).inputs = s.inputs := rfl
@[simp] theorem State.takeString_port (bs : List Byte) : (s.takeString bs).port = s.port := rfl
@[simp] theorem State.takeString_epoch (bs : List Byte) : (s.takeString bs).epoch = s.epoch := rfl

/-! ### resetBlock -/

@[simp] theorem State.resetBlock_cfg : s.resetBlock.cfg = s.cfg := rfl
@[simp] theorem State.resetBlock_inBuf : s.resetBlock.inBuf = [] := rfl
@[simp] theorem State.resetBlock_inLen : s.resetBlock.inLen = 0 := rfl
@[simp] theorem State.resetBlock_phase : s.resetBlock.phase = .h0 := rfl
@[simp] theorem State.resetBlock_p : s.resetBlock.p = 0 := rfl
@[simp] theorem State.resetBlock_addr : s.resetBlock.addr = none := rfl
@[simp] theorem State.resetBlock_kind : s.resetBlock.kind = none := rfl
@[simp] theorem State.resetBlock_pop : s.resetBlock.pop = none := rfl
@[simp] theorem State.resetBlock_fv1 : s.resetBlock.fv1 = none := rfl
@[simp] theorem State.resetBlock_fv2 : s.resetBlock.fv2 = none := rfl
@[simp] theorem State.resetBlock_vstr : s.resetBlock.vstr = [] := rfl
@[simp] theorem State.resetBlock_dstatus : s.resetBlock.dstatus = .idle := rfl
@[simp] theorem State.resetBlock_derr : s.resetBlock.derr = none := rfl
@[simp] theorem State.resetBlock_dmsg : s.resetBlock.dmsg = none := rfl
@[simp] theorem State.resetBlock_emsg : s.resetBlock.emsg = none := rfl
@[simp] theorem State.resetBlock_estatus : s.resetBlock.estatus = .idle := rfl
@[simp] theorem State.resetBlock_eidx : s.resetBlock.eidx = 0 := rfl
@[simp] theorem State.resetBlock_outBuf : s.resetBlock.outBuf = [] := rfl
@[simp] theorem State.resetBlock_outLen : s.resetBlock.outLen = none := rfl
@[simp] theorem State.resetBlock_turn : s.resetBlock.turn = .decoder := rfl
@[simp] theorem State.resetBlock_inputs : s.resetBlock.inputs = s.inputs := rfl
@[simp] theorem State.resetBlock_port : s.resetBlock.port = none := rfl
@[simp] theorem State.resetBlock_epoch : s.resetBlock.epoch = s.epoch + 1 := rfl

end

end Sys2Proof.Machine
end

