-- ==== Sys2Proof/Laws/Ops.lean ====
section
/-! SUPPORT. For each shared operation of the machine, everything it can do: what it answers next, and when. -/

namespace Sys2Proof.Machine

/-! ## Outcomes -/

/-- A next state is reached only through a next state. -/
theorem andThen_next {r : Result} {f : State → Result} {t : State} :
    andThen r f = .next t ↔ ∃ s, r = .next s ∧ f s = .next t := by
  cases r <;> simp [andThen]

@[simp] theorem andThen_next_eq (s : State) (f : State → Result) : andThen (.next s) f = f s := rfl

/-! ## Reading the frame -/

@[simp] theorem State.bytesFrom_length (s : State) (a n : Nat) : (s.bytesFrom a n).length = n := by
  induction n generalizing a with
  | zero => rfl
  | succ n ih => simp [State.bytesFrom, ih]

@[simp] theorem State.remaining_length (s : State) : s.remaining.length = s.inLen - s.p := by
  simp [State.remaining]

/-- At the end of the frame the cursor reads nothing and nothing remains. -/
theorem State.cursor_end {s : State} (h : s.inLen ≤ s.p) : s.cursor = none ∧ s.remaining = [] := by
  simp [State.cursor, State.remaining, Nat.not_lt.2 h, Nat.sub_eq_zero_of_le h, State.bytesFrom]

/-- Inside the frame the cursor reads the first of the bytes that remain. -/
theorem State.cursor_inside {s : State} (h : s.p < s.inLen) :
    s.cursor = some (s.inByte s.p) ∧ s.remaining = s.inByte s.p :: s.bytesFrom (s.p + 1) (s.inLen - (s.p + 1)) := by
  have e : s.inLen - s.p = (s.inLen - (s.p + 1)) + 1 := by omega
  simp [State.cursor, State.remaining, h, e, State.bytesFrom]

/-- The bytes of a buffer depend only on the buffer and the epoch. -/
theorem State.bytesFrom_congr {s t : State} (hb : s.inBuf = t.inBuf) (he : s.epoch = t.epoch) (a n : Nat) :
    s.bytesFrom a n = t.bytesFrom a n := by
  induction n generalizing a with
  | zero => rfl
  | succ n ih => simp [State.bytesFrom, State.inByte, hb, he, ih]

/-! ## Taking an entry -/

section
variable (s : State) (pv : ParameterValue)

/-- Taking an entry writes the captures of its shape and moves the cursor past it. -/
theorem State.takeEntry_eq : s.takeEntry pv =
    { s with
      pop := s.cfg.opcodeOf pv.name
      fv1 := (match pv.payload with
        | .unit => s.fv1
        | .one f => some f
        | .pair f _ => some f)
      fv2 := (match pv.payload with
        | .unit => s.fv2
        | .one _ => s.fv2
        | .pair _ f => some f)
      p := s.p + pv.payload.entryLength } := by
  obtain ⟨n, p⟩ := pv
  cases p <;> rfl

@[simp] theorem State.takeEntry_cfg : (s.takeEntry pv).cfg = s.cfg := by rw [State.takeEntry_eq]
@[simp] theorem State.takeEntry_inBuf : (s.takeEntry pv).inBuf = s.inBuf := by rw [State.takeEntry_eq]
@[simp] theorem State.takeEntry_inLen : (s.takeEntry pv).inLen = s.inLen := by rw [State.takeEntry_eq]
@[simp] theorem State.takeEntry_phase : (s.takeEntry pv).phase = s.phase := by rw [State.takeEntry_eq]
@[simp] theorem State.takeEntry_p : (s.takeEntry pv).p = s.p + pv.payload.entryLength := by rw [State.takeEntry_eq]
@[simp] theorem State.takeEntry_addr : (s.takeEntry pv).addr = s.addr := by rw [State.takeEntry_eq]
@[simp] theorem State.takeEntry_kind : (s.takeEntry pv).kind = s.kind := by rw [State.takeEntry_eq]
@[simp] theorem State.takeEntry_pop : (s.takeEntry pv).pop = s.cfg.opcodeOf pv.name := by rw [State.takeEntry_eq]
@[simp] theorem State.takeEntry_vstr : (s.takeEntry pv).vstr = s.vstr := by rw [State.takeEntry_eq]
@[simp] theorem State.takeEntry_dstatus : (s.takeEntry pv).dstatus = s.dstatus := by rw [State.takeEntry_eq]
@[simp] theorem State.takeEntry_derr : (s.takeEntry pv).derr = s.derr := by rw [State.takeEntry_eq]
@[simp] theorem State.takeEntry_dmsg : (s.takeEntry pv).dmsg = s.dmsg := by rw [State.takeEntry_eq]
@[simp] theorem State.takeEntry_emsg : (s.takeEntry pv).emsg = s.emsg := by rw [State.takeEntry_eq]
@[simp] theorem State.takeEntry_estatus : (s.takeEntry pv).estatus = s.estatus := by rw [State.takeEntry_eq]
@[simp] theorem State.takeEntry_eidx : (s.takeEntry pv).eidx = s.eidx := by rw [State.takeEntry_eq]
@[simp] theorem State.takeEntry_outBuf : (s.takeEntry pv).outBuf = s.outBuf := by rw [State.takeEntry_eq]
@[simp] theorem State.takeEntry_outLen : (s.takeEntry pv).outLen = s.outLen := by rw [State.takeEntry_eq]
@[simp] theorem State.takeEntry_turn : (s.takeEntry pv).turn = s.turn := by rw [State.takeEntry_eq]
@[simp] theorem State.takeEntry_inputs : (s.takeEntry pv).inputs = s.inputs := by rw [State.takeEntry_eq]
@[simp] theorem State.takeEntry_port : (s.takeEntry pv).port = s.port := by rw [State.takeEntry_eq]
@[simp] theorem State.takeEntry_epoch : (s.takeEntry pv).epoch = s.epoch := by rw [State.takeEntry_eq]

end

/-! ## What `EMSG` and `OUT` hold -/

/-- A written `EMSG` holds the message written to it. -/
@[simp] theorem State.messageIn_written {s : State} {m : Message} (h : s.emsg = some m) : s.messageIn = m := by
  simp [State.messageIn, h]

/-- What an unwritten `EMSG` holds is a value of type Message. -/
@[simp] theorem unwrittenMessage_wf (c : Config) (epoch : Nat) : (unwrittenMessage c epoch).wf c = true := by
  unfold unwrittenMessage
  split
  · assumption
  · rfl

/-- `EMSG` holds a value of type Message once every message written to it is one. -/
theorem State.messageIn_wf {s : State} (h : ∀ m, s.emsg = some m → m.wf s.cfg = true) : s.messageIn.wf s.cfg = true := by
  unfold State.messageIn
  split
  · exact h _ (by assumption)
  · exact unwrittenMessage_wf _ _

/-- What `EMSG` holds depends only on the register, the configuration and the epoch. -/
theorem State.messageIn_congr {s t : State} (hc : t.cfg = s.cfg) (he : t.emsg = s.emsg) (hp : t.epoch = s.epoch) :
    t.messageIn = s.messageIn := by
  simp [State.messageIn, hc, he, hp]

@[simp] theorem State.beginEncode_messageIn (s : State) : s.beginEncode.messageIn = s.messageIn := rfl

/-- A byte of `OUT` that has been stored reads as it was stored. -/
@[simp] theorem State.outByte_written {s : State} {a : Nat} {b : Byte} (h : s.outBuf.read a = some b) :
    s.outByte a = b := by
  simp [State.outByte, h]

/-! ## Emitting -/

/-- Emitting answers a next state exactly when the bytes fit, and then stores them and moves the index. -/
theorem emitBytes_next {bs : List Byte} {s t : State} :
    emitBytes bs s = .next t ↔ s.eidx + bs.length ≤ s.cfg.maxFrameLen ∧
      t = { s with outBuf := s.outBuf.writeAll s.eidx bs, eidx := s.eidx + bs.length } := by
  simp only [emitBytes]
  split <;> simp_all [eq_comm]

/-! ## Running an instruction -/

/-- Everything a frame instruction can do when it goes on. -/
theorem runFrame_next {m : Message} {arm : State → State} {bs : List Byte} {s t : State}
    (h : runFrame m arm bs s = .next t) :
    m.wf s.cfg = true ∧
      ((s.turn = .decoder ∧ s.dstatus = .busy ∧ s.phase = .h0 ∧ t = arm s) ∨
        (s.turn = .encoder ∧ s.estatus = .busy ∧ s.eidx = 0 ∧ bs.length ≤ s.cfg.maxFrameLen ∧
          t = { s with outBuf := s.outBuf.writeAll 0 bs, eidx := bs.length, outLen := some bs.length, estatus := .done })) := by
  simp only [runFrame] at h
  split at h
  · refine ⟨by assumption, ?_⟩
    split at h
    · split at h
      · rename_i hb
        exact .inl ⟨by assumption, hb.1, hb.2, by simpa [eq_comm] using h⟩
      · simp at h
    · split at h
      · rename_i hb
        simp only [andThen_next, emitBytes_next, hb.2, Nat.zero_add] at h
        obtain ⟨u, ⟨hl, rfl⟩, h⟩ := h
        exact .inr ⟨by assumption, hb.1, hb.2, hl, by simpa [State.setDone, eq_comm] using h⟩
      · simp at h
  · simp at h

/-- Everything an entry instruction can do when it goes on. -/
theorem runEntry_next {pv : ParameterValue} {s t : State} (h : runEntry pv s = .next t) :
    pv.wf s.cfg = true ∧
      ((s.turn = .decoder ∧ s.dstatus = .busy ∧ s.phase = .pop ∧ t = (s.takeEntry pv).goto .term) ∨
        (s.turn = .encoder ∧ s.estatus = .busy ∧
          s.eidx + (encodeParameter s.cfg pv).length ≤ s.cfg.maxFrameLen ∧
          t = { s with
            outBuf := s.outBuf.writeAll s.eidx (encodeParameter s.cfg pv)
            eidx := s.eidx + (encodeParameter s.cfg pv).length })) := by
  simp only [runEntry] at h
  split at h
  · refine ⟨by assumption, ?_⟩
    split at h
    · split at h
      · rename_i hb
        exact .inl ⟨by assumption, hb.1, hb.2, by simpa [eq_comm] using h⟩
      · simp at h
    · split at h
      · rename_i hb
        obtain ⟨hl, rfl⟩ := emitBytes_next.1 h
        exact .inr ⟨by assumption, hb, hl, rfl⟩
      · simp at h
  · simp at h

/-- The registers a decode of a message writes, kind by kind (R188 to R192). -/
def frameArm (m : Message) (s : State) : State :=
  match m with
  | .setParameter a pv => ((s.takePrefix a kSet).takeEntry pv).accept m
  | .restoreParameter a => (s.takePrefix a kRestore).accept m
  | .requestVersion a => (s.takePrefix a kReqVer).accept m
  | .reportVersion a v => (((s.takePrefix a kRepVer).takeVersion).takeString v).accept m
  | .parameterUpdate a pv => (((s.takePrefix a kUpdate).takeVersion).takeEntry pv).accept m

/-- `exec` of a message's frame runs the frame. -/
theorem exec_toInstr (m : Message) (s : State) :
    exec m.toInstr s = runFrame m (frameArm m) (encodeMessage s.cfg m) s := by
  cases m <;> rfl

/-- `exec` of a parameter value's entry runs the entry. -/
theorem exec_parameter {i : Instr} {pv : ParameterValue} (h : i.parameter? = some pv) (s : State) :
    exec i s = runEntry pv s := by
  cases i <;> simp only [Instr.parameter?, Option.some.injEq, reduceCtorEq] at h <;> subst h <;> rfl

/-- The entry instruction of a parameter value carries that value. -/
theorem parameter?_toInstr (pv : ParameterValue) : pv.toInstr.parameter? = some pv := by
  obtain ⟨n, p⟩ := pv
  simp only [ParameterValue.toInstr]
  split <;> simp_all [Instr.parameter?]

/-- The frame instruction of a message carries that message. -/
theorem message?_toInstr (m : Message) : m.toInstr.message? = some m := by cases m <;> rfl

/-! ## Rows -/

/-- R237: everything a row can do when it goes on: take a failure at the cursor's place, accept at the terminator, or
consume one byte and stay BUSY; in the phase DONE, nothing. In each case only the decoder's registers change. -/
theorem row_next {s t : State} (h : row s = .next t) :
    (∃ e, t = s.raise e) ∨ (s.p < s.inLen ∧ ∃ m, t = s.accept m) ∨
      (s.p < s.inLen ∧ ∃ a k op f1 f2 v ph, t = { s with
        addr := a, kind := k, pop := op, fv1 := f1, fv2 := f2, vstr := v, phase := ph, p := s.p + 1 }) ∨
      (s.phase = .done ∧ t = s) := by
  have hc : ∀ v, s.cursor = some v → s.p < s.inLen := by
    intro v hv
    simp only [State.cursor, Option.ite_none_right_eq_some] at hv
    exact hv.1
  have hh : ∀ c nxt, rowHeader c nxt s = .next t → (∃ e, t = s.raise e) ∨ (s.p < s.inLen ∧ t = (s.advance 1).goto nxt) := by
    intro c nxt h
    simp only [rowHeader] at h
    split at h
    · exact .inl ⟨_, by simpa [eq_comm] using h⟩
    · split at h
      · exact .inr ⟨hc _ (by assumption), by simpa [eq_comm] using h⟩
      · exact .inl ⟨_, by simpa [eq_comm] using h⟩
  have step : ∀ c nxt, rowHeader c nxt s = .next t → _ := fun c nxt h =>
    show (∃ e, t = s.raise e) ∨ (s.p < s.inLen ∧ ∃ m, t = s.accept m) ∨
      (s.p < s.inLen ∧ ∃ a k op f1 f2 v ph, t = { s with
        addr := a, kind := k, pop := op, fv1 := f1, fv2 := f2, vstr := v, phase := ph, p := s.p + 1 }) ∨
      (s.phase = .done ∧ t = s) from
      (hh c nxt h).imp id fun ⟨hp, e⟩ => .inr (.inl ⟨hp, _, _, _, _, _, _, nxt, e⟩)
  simp only [row] at h
  split at h
  iterate 5 exact step _ _ h
  all_goals try (rename_i hph; exact .inr (.inr (.inr ⟨hph, by simpa [eq_comm] using h⟩)))
  all_goals
    simp only [rowAddr, rowKind, rowVer, rowPop, rowFld1, rowFld2, rowPlh, rowStr, rowTerm] at h
    repeat' split at h
    all_goals cases h
    all_goals first
      | exact .inl ⟨_, rfl⟩
      | exact .inr (.inl ⟨hc _ (by assumption), _, rfl⟩)
      | exact .inr (.inr (.inl ⟨hc _ (by assumption), _, _, _, _, _, _, _, rfl⟩))

/-- Everything one emit can do when it goes on: one byte of the frame stored, and DONE after the last. -/
theorem emitNext_next {s t : State} (h : emitNext s = .next t) :
    ∃ v, (encodeMessage s.cfg s.messageIn)[s.eidx]? = some v ∧ s.eidx < s.cfg.maxFrameLen ∧
      t = doneAfter (encodeMessage s.cfg s.messageIn).length
        { s with outBuf := s.outBuf.write s.eidx v, eidx := s.eidx + 1 } := by
  simp only [emitNext] at h
  split at h
  · simp at h
  · rename_i v hv
    simp only [andThen_next, emitBytes_next] at h
    obtain ⟨u, ⟨hl, rfl⟩, h⟩ := h
    simp only [List.length_cons, List.length_nil, Nat.zero_add] at hl
    exact ⟨v, hv, by omega, by simpa [Memory.writeAll, eq_comm] using h⟩

/-! ## Steps -/

/-- One step serves the first waiting request, or else the block moves by itself. -/
theorem step_cases (s : State) :
    (∃ r rest, s.inputs = r :: rest ∧ step s = serve r { s with inputs := rest }) ∨
      (s.inputs = [] ∧ step s = moveBlock s) := by
  simp only [step]
  split
  · rename_i r rest h
    exact .inl ⟨r, rest, h, rfl⟩
  · rename_i h
    exact .inr ⟨h, rfl⟩

/-- The block's own move when it goes on: it waits, or one unit that is BUSY moves. -/
theorem moveBlock_next {s t : State} (h : moveBlock s = .next t) :
    (s.mover = none ∧ t = s) ∨
      (s.mover = some .decoder ∧ s.dstatus = .busy ∧ moveDecoder { s with turn := .decoder } = .next t) ∨
      (s.mover = some .encoder ∧ s.estatus = .busy ∧ moveEncoder { s with turn := .encoder } = .next t) := by
  simp only [moveBlock] at h
  have hb : ∀ u, s.mover = some u → s.unitBusy u = true := by
    intro u hu
    simp only [State.mover] at hu
    repeat' split at hu
    all_goals simp_all
  split at h
  · exact .inl ⟨by assumption, by simpa [eq_comm] using h⟩
  · exact .inr (.inl ⟨by assumption, eq_of_beq (hb .decoder (by assumption)), h⟩)
  · exact .inr (.inr ⟨by assumption, eq_of_beq (hb .encoder (by assumption)), h⟩)

/-- Rows run one after another: a run of rows that goes on keeps whatever each row keeps. -/
theorem runRows_keeps {P : State → Prop} (hrow : ∀ s t, P s → s.dstatus = .busy → row s = .next t → P t) (n : Nat)
    {s t : State} (hs : P s) (h : runRows n s = .next t) : P t := by
  induction n generalizing s with
  | zero =>
    obtain rfl : s = t := by simpa [runRows] using h
    exact hs
  | succ n ih =>
    simp only [runRows] at h
    split at h
    · obtain ⟨u, hu, h⟩ := andThen_next.1 h
      exact ih (hrow s u hs (by assumption) hu) h
    · obtain rfl : s = t := by simpa using h
      exact hs

end Sys2Proof.Machine
end

