-- ==== Sys2Proof/Laws/PerInstr.lean ====
section
/-! SUPPORT. Laws said of every instruction as syntax, one lemma for each constructor. -/

namespace Sys2Proof.Laws.OneTerm

/-- R81: a well-formed instruction stands for exactly one term of the spec, a message or a parameter value, which is well
formed, gives the instruction back, and says what is fetched for it. -/
def Statement (i : Instr) : Prop :=
  ∀ c : Config, i.wf c = true →
    (∃ m : Message, i.message? = some m ∧ i.parameter? = none ∧ m.toInstr = i ∧ m.wf c = true ∧ i.fetch = .frame) ∨
      (∃ pv : ParameterValue, i.parameter? = some pv ∧ i.message? = none ∧ pv.toInstr = i ∧ pv.wf c = true ∧
        i.fetch = .entry)

theorem setParameter (a : DeviceAddress) (pv : ParameterValue) : Statement (.setParameter a pv) :=
  fun _ h => .inl ⟨_, rfl, rfl, rfl, h, rfl⟩

theorem restoreParameter (a : DeviceAddress) : Statement (.restoreParameter a) :=
  fun _ h => .inl ⟨_, rfl, rfl, rfl, h, rfl⟩

theorem requestVersion (a : DeviceAddress) : Statement (.requestVersion a) :=
  fun _ h => .inl ⟨_, rfl, rfl, rfl, h, rfl⟩

theorem reportVersion (a : DeviceAddress) (v : List Byte) : Statement (.reportVersion a v) :=
  fun _ h => .inl ⟨_, rfl, rfl, rfl, h, rfl⟩

theorem parameterUpdate (a : DeviceAddress) (pv : ParameterValue) : Statement (.parameterUpdate a pv) :=
  fun _ h => .inl ⟨_, rfl, rfl, rfl, h, rfl⟩

theorem paraphonicMode (t : Toggle) : Statement (.paraphonicMode t) :=
  fun _ h => .inr ⟨_, rfl, rfl, rfl, h, rfl⟩

theorem resetLfoShapeOrder : Statement .resetLfoShapeOrder :=
  fun _ h => .inr ⟨_, rfl, rfl, rfl, h, rfl⟩

theorem resetKeyRange : Statement .resetKeyRange :=
  fun _ h => .inr ⟨_, rfl, rfl, rfl, h, rfl⟩

theorem lfoShapeAtIndex (n : Nat) (sh : LfoShape) : Statement (.lfoShapeAtIndex n sh) :=
  fun _ h => .inr ⟨_, rfl, rfl, rfl, h, rfl⟩

theorem lfoPhaseAtIndex (n d : Nat) : Statement (.lfoPhaseAtIndex n d) :=
  fun _ h => .inr ⟨_, rfl, rfl, rfl, h, rfl⟩

theorem catEntry (name : VariantName) (p : Payload) : Statement (.catEntry name p) := by
  intro c h
  simp only [Instr.wf, Bool.and_eq_true] at h
  refine .inr ⟨⟨name, p⟩, rfl, rfl, ?_, h.2, rfl⟩
  cases name <;> simp at h
  rfl

end Sys2Proof.Laws.OneTerm
end

