-- ==== Sys2Proof/Machine/Assembly.lean ====
section
/-! DEFINITION. The textual notation (R9, R80, R81): a message as a constructor term, a frame as its bytes in hex. -/

namespace Sys2Proof

/-- R80: the name of a parameter variant. The source names none of the other entries: they are written `CAT[id]`
(assumption 9). -/
def VariantName.text : VariantName → String
  | .paraphonicMode => "ParaphonicMode"
  | .resetLfoShapeOrder => "ResetLfoShapeOrder"
  | .resetKeyRange => "ResetKeyRange"
  | .lfoShapeAtIndex => "LfoShapeAtIndex"
  | .lfoPhaseAtIndex => "LfoPhaseAtIndex"
  | .unnamed id => "CAT[" ++ toString id ++ "]"
  | .calibrationModeTrigger => "CalibrationModeTrigger"
  | .keyRangeBounds => "KeyRangeBounds"
  | .notePriority => "NotePriority"
  | .pitchBendRange => "PitchBendRange"

/-- R80 `value`. -/
def FieldValue.text : FieldValue → String
  | .toggle .off => "Off"
  | .toggle .on => "On"
  | .blendMode .blend => "Blend"
  | .blendMode .switch => "Switch"
  | .oscRange .oscRange0 => "OscRange0"
  | .oscRange .oscRange1 => "OscRange1"
  | .oscRange .oscRange2 => "OscRange2"
  | .oscRange .oscRange3 => "OscRange3"
  | .keyTrackMode .track => "Track"
  | .keyTrackMode .hold => "Hold"
  | .semitoneOffset s => toString s
  | .lfoIndex n => toString n
  | .lfoShape .lfoShape0 => "LfoShape0"
  | .lfoShape .lfoShape1 => "LfoShape1"
  | .lfoShape .lfoShape2 => "LfoShape2"
  | .lfoShape .lfoShape3 => "LfoShape3"
  | .lfoShape .lfoShape4 => "LfoShape4"
  | .lfoPhaseOffset d => toString d ++ "deg"
  | .modSource .modSource0 => "ModSource0"
  | .modSource .modSource1 => "ModSource1"
  | .modSource .modSource2 => "ModSource2"
  | .modSource .modSource3 => "ModSource3"
  | .assignOutTarget .assignOut0 => "AssignOut0"
  | .assignOutTarget .assignOut1 => "AssignOut1"
  | .assignOutTarget .assignOut2 => "AssignOut2"
  | .assignOutTarget .assignOut3 => "AssignOut3"
  | .assignOutTarget .assignOut4 => "AssignOut4"
  | .envRetriggerMode .staccato => "Staccato"
  | .envRetriggerMode .legato => "Legato"
  | .midiChannel n => toString n
  | .percentage l => toString l

/-- R80 `param`. -/
def ParameterValue.text (pv : ParameterValue) : String :=
  match pv.payload with
  | .unit => pv.name.text
  | .one f => pv.name.text ++ "(" ++ f.text ++ ")"
  | .pair f1 f2 => pv.name.text ++ "(" ++ f1.text ++ ", " ++ f2.text ++ ")"

/-- R80 `addr`. -/
def DeviceAddress.text : DeviceAddress → String
  | .channel n => "Channel(" ++ toString n ++ ")"
  | .broadcast => "Broadcast"

/-- R9: the characters of a version string. -/
def asciiText (s : List Byte) : String := String.ofList (s.map (fun b => Char.ofNat b.toNat))

/-- R80 `message`. -/
def Message.text : Message → String
  | .setParameter a pv => "SetParameter(" ++ a.text ++ ", " ++ pv.text ++ ")"
  | .restoreParameter a => "RestoreParameter(" ++ a.text ++ ")"
  | .requestVersion a => "RequestVersion(" ++ a.text ++ ")"
  | .reportVersion a s => "ReportVersion(" ++ a.text ++ ", \"" ++ asciiText s ++ "\")"
  | .parameterUpdate a pv => "ParameterUpdate(" ++ a.text ++ ", " ++ pv.text ++ ")"

/-- R6: one hexadecimal digit. -/
def hexDigit (n : Nat) : Char := if n < 10 then Char.ofNat (48 + n) else Char.ofNat (55 + n)

/-- R6: two hex digits. -/
def byteText (b : Byte) : String := String.ofList [hexDigit (b.toNat / 16), hexDigit (b.toNat % 16)]

/-- R80: a frame as its bytes in hex separated by spaces. -/
def frameText (bs : List Byte) : String := String.intercalate " " (bs.map byteText)

end Sys2Proof
end

