-- ==== Sys2Proof/Tests/Slice0.lean ====
section
/-! SUPPORT. Tests with results taken from the spec's own vectors (95_test_vectors.md), the checks of WellFormed on
ill-formed terms, and for each statement a witness that its hypotheses can be met. -/

namespace Sys2Proof.Tests

open Sys2Proof Sys2Proof.Machine

/-! ## The spec's test table CAT_T -/

/-- 95_test_vectors.md, CAT_T: its invented entries are `unnamed` by their opcode. Buffers of 16 bytes. -/
def catT : Config :=
  ⟨[⟨0x0F#8, .paraphonicMode, .one .toggle⟩, ⟨0x20#8, .unnamed 0x20, .one .blendMode⟩,
    ⟨0x21#8, .unnamed 0x21, .one .oscRange⟩, ⟨0x22#8, .unnamed 0x22, .one .keyTrackMode⟩,
    ⟨0x23#8, .unnamed 0x23, .one .semitoneOffset⟩, ⟨0x24#8, .unnamed 0x24, .one .lfoIndex⟩,
    ⟨0x25#8, .unnamed 0x25, .one .lfoShape⟩, ⟨0x26#8, .unnamed 0x26, .one .lfoPhaseOffset⟩,
    ⟨0x27#8, .unnamed 0x27, .one .modSource⟩, ⟨0x28#8, .unnamed 0x28, .one .assignOutTarget⟩,
    ⟨0x29#8, .unnamed 0x29, .one .envRetriggerMode⟩, ⟨0x2A#8, .unnamed 0x2A, .one .midiChannel⟩,
    ⟨0x2B#8, .unnamed 0x2B, .one .percentage⟩, ⟨0x2C#8, .resetLfoShapeOrder, .unit⟩,
    ⟨0x2D#8, .resetKeyRange, .unit⟩, ⟨0x2E#8, .lfoShapeAtIndex, .pair .lfoIndex .lfoShape⟩,
    ⟨0x2F#8, .lfoPhaseAtIndex, .pair .lfoIndex .lfoPhaseOffset⟩], 16⟩

theorem test_catT_admissible : catT.Admissible := by decide

theorem test_catT_nCat : catT.nCat = 17 := by decide

/-- A frame with the correct header. -/
def fr (bs : List Byte) : List Byte := [0xF0#8, 0x00#8, 0x20#8, 0x32#8, 0x28#8] ++ bs

/-- What a frame decodes to with CAT_T. -/
def dec (bs : List Byte) : Except ErrorKind Message := decodeMessage catT (fr bs)

/-- Whether a decode answered this message. -/
def gives (r : Except ErrorKind Message) (m : Message) : Bool :=
  match r with
  | .ok x => x == m
  | .error _ => false

/-- Whether a decode failed with this kind. -/
def fails (r : Except ErrorKind Message) (e : ErrorKind) : Bool :=
  match r with
  | .ok _ => false
  | .error x => x == e

/-- Whether an entry decodes to this instruction with CAT_T. -/
def entryGives (bs : List Byte) (i : Instr) : Bool :=
  match decode catT .entry bs with
  | .ok x => x == i
  | .error _ => false

/-- Whether a frame decodes to this instruction with CAT_T. -/
def frameGives (bs : List Byte) (i : Instr) : Bool :=
  match decode catT .frame bs with
  | .ok x => x == i
  | .error _ => false

/-- Whether a step goes on to a state of which this holds. -/
def nextHas (r : Result) (p : State → Bool) : Bool :=
  match r with
  | .next t => p t
  | .fault _ => false
  | .refused _ => false

/-- `ParaphonicMode(On)`. -/
def paraOn : ParameterValue := ⟨.paraphonicMode, .one (.toggle .on)⟩

/-! ## States -/

/-- After reset, with CAT_T. -/
def idleT : State := { State.reset with cfg := catT }

/-- A decode just started on a frame. -/
def startT (bs : List Byte) : State := idleT.withFrame bs

/-- An encode just started on a message. -/
def encT (m : Message) : State :=
  { idleT with emsg := some m, estatus := .busy, turn := .encoder }

/-- A state with requests waiting. -/
def withReq (s : State) (rs : List Request) : State := { s with inputs := rs }

/-- A RestoreParameter decode at its terminator, on a frame with a correct prefix and the bytes `bs` after it. -/
def termT (bs : List Byte) : State :=
  { startT (fr (0x7F#8 :: 0x0B#8 :: bs)) with
    phase := .term, p := 7, addr := some .broadcast, kind := some 0x0B#8 }

/-- A SetParameter decode at its entry. -/
def popT (bs : List Byte) : State := idleT.withEntry bs

theorem idleT_inv : idleT.Inv where
  config := test_catT_admissible
  buffers := ⟨by decide, by decide, by decide, by decide, by decide⟩
  results := ⟨by decide, by decide, fun m h => by simp [idleT, State.reset] at h⟩
  phases := ⟨by decide, by decide, by decide, by decide⟩
  cursor := ⟨by decide, by decide⟩
  captures := fun h => by simp [idleT, State.reset] at h
  emsg := State.messageIn_wf fun m h => by simp [idleT, State.reset] at h
  encoder := ⟨by decide, fun h => by simp [idleT, State.reset] at h, fun h => by simp [idleT, State.reset] at h⟩

/-- The frame of RequestVersion(Channel(3)). -/
def reqFrame : List Byte := fr [0x02#8, 0x73#8, 0xF7#8]

theorem startT_inv : (startT reqFrame).Inv where
  config := test_catT_admissible
  buffers := ⟨by decide, by decide, by decide, by decide, by decide⟩
  results := ⟨by decide, by decide, fun m h => by simp [startT, State.withFrame, State.beginDecode] at h⟩
  phases := ⟨by decide, by decide, by decide, by decide⟩
  cursor := ⟨by decide, by decide⟩
  captures := fun _ => ⟨⟨rfl, rfl, rfl, rfl, rfl, rfl⟩, rfl⟩
  emsg := State.messageIn_wf fun m h => by simp [startT, State.withFrame, State.beginDecode, idleT, State.reset] at h
  encoder := ⟨by decide, fun h => by simp [startT, State.withFrame, State.beginDecode, idleT, State.reset] at h,
    fun h => by simp [startT, State.withFrame, State.beginDecode, idleT, State.reset] at h⟩

theorem startT_started (bs : List Byte) : (startT bs).Started :=
  ⟨rfl, rfl, rfl, ⟨rfl, rfl, rfl, rfl, rfl, rfl⟩, rfl, rfl⟩

theorem encT_encoding (m : Message) : (encT m).Encoding m := ⟨rfl, rfl, rfl, rfl⟩

theorem encT_inv : (encT (.requestVersion (.channel 3))).Inv where
  config := test_catT_admissible
  buffers := ⟨by decide, by decide, by decide, by decide, by decide⟩
  results := ⟨by decide, by decide, fun m h => by simp [encT, idleT, State.reset] at h⟩
  phases := ⟨by decide, by decide, by decide, by decide⟩
  cursor := ⟨by decide, by decide⟩
  captures := fun h => by simp [encT, idleT, State.reset] at h
  emsg := by unfold State.EmsgOk; decide
  encoder := ⟨by decide, fun _ => ⟨by decide, fun i h => absurd h (by simp [encT, idleT, State.reset])⟩,
    fun h => by simp [encT] at h⟩

/-! ## WellFormed: each check refuses an ill-formed term (R23 to R26) -/

theorem test_wf_channel_low : (DeviceAddress.channel 0).wf = false := by decide
theorem test_wf_channel_high : (DeviceAddress.channel 17).wf = false := by decide
theorem test_wf_semitone_low : (FieldValue.semitoneOffset (-13)).wf = false := by decide
theorem test_wf_semitone_high : (FieldValue.semitoneOffset 13).wf = false := by decide
theorem test_wf_lfoIndex_low : (FieldValue.lfoIndex 0).wf = false := by decide
theorem test_wf_lfoIndex_high : (FieldValue.lfoIndex 6).wf = false := by decide
theorem test_wf_phase_step : (FieldValue.lfoPhaseOffset 44).wf = false := by decide
theorem test_wf_phase_high : (FieldValue.lfoPhaseOffset 360).wf = false := by decide
theorem test_wf_midiChannel_low : (FieldValue.midiChannel 0).wf = false := by decide
theorem test_wf_midiChannel_high : (FieldValue.midiChannel 17).wf = false := by decide
theorem test_wf_percentage : (FieldValue.percentage 64).wf = false := by decide
theorem test_wf_payload_one : (Payload.one (.percentage 64)).wf = false := by decide
theorem test_wf_payload_pair : (Payload.pair (.lfoIndex 5) (.lfoPhaseOffset 10)).wf = false := by decide
theorem test_wf_payload_pair_first : (Payload.pair (.lfoIndex 0) (.lfoPhaseOffset 45)).wf = false := by decide
theorem test_wf_arity : ParameterValue.wf ⟨.paraphonicMode, .unit⟩ catT = false := by decide
theorem test_wf_field_type : ParameterValue.wf ⟨.paraphonicMode, .one (.blendMode .blend)⟩ catT = false := by decide
theorem test_wf_no_slot : ParameterValue.wf ⟨.unnamed 0x30, .unit⟩ catT = false := by decide
theorem test_wf_excluded : ParameterValue.wf ⟨.notePriority, .unit⟩ catT = false := by decide
theorem test_wf_version_high_byte : versionStringWf catT [0x80#8] = false := by decide
theorem test_wf_version_long : versionStringWf catT (List.replicate 8 0x31#8) = false := by decide
theorem test_wf_message_address : Message.wf (.setParameter (.channel 17) paraOn) catT = false := by decide
theorem test_wf_message_restore : Message.wf (.restoreParameter (.channel 0)) catT = false := by decide
theorem test_wf_message_request : Message.wf (.requestVersion (.channel 0)) catT = false := by decide
theorem test_wf_message_report : Message.wf (.reportVersion .broadcast [0xF7#8]) catT = false := by decide
theorem test_wf_message_update : Message.wf (.parameterUpdate .broadcast ⟨.pitchBendRange, .unit⟩) catT = false := by decide
theorem test_wf_entry_index : Instr.wf (.lfoShapeAtIndex 6 .lfoShape0) catT = false := by decide
theorem test_wf_entry_phase : Instr.wf (.lfoPhaseAtIndex 1 1) catT = false := by decide
theorem test_wf_entry_named : Instr.wf (.catEntry .resetKeyRange .unit) catT = false := by decide

/-! ## Decoding: words written out from the encodings -/

/-- S1. -/
theorem test_decode_setParameter :
    frameGives [0xF0#8, 0x00#8, 0x20#8, 0x32#8, 0x28#8, 0x7F#8, 0x0A#8, 0x0F#8, 0x01#8, 0xF7#8]
      (.setParameter .broadcast paraOn) = true := by decide
/-- R189. -/
theorem test_decode_restoreParameter :
    frameGives [0xF0#8, 0x00#8, 0x20#8, 0x32#8, 0x28#8, 0x0F#8, 0x0B#8, 0xF7#8] (.restoreParameter (.channel 16)) = true := by
  decide
/-- R190. -/
theorem test_decode_requestVersion :
    frameGives [0xF0#8, 0x00#8, 0x20#8, 0x32#8, 0x28#8, 0x02#8, 0x73#8, 0xF7#8] (.requestVersion (.channel 3)) = true := by
  decide
/-- S3. -/
theorem test_decode_reportVersion :
    frameGives [0xF0#8, 0x00#8, 0x20#8, 0x32#8, 0x28#8, 0x7F#8, 0x74#8, 0x01#8, 0x31#8, 0x2E#8, 0x32#8, 0x2E#8, 0x33#8, 0xF7#8]
      (.reportVersion .broadcast [0x31#8, 0x2E#8, 0x32#8, 0x2E#8, 0x33#8]) = true := by decide
/-- S2. -/
theorem test_decode_parameterUpdate :
    frameGives [0xF0#8, 0x00#8, 0x20#8, 0x32#8, 0x28#8, 0x00#8, 0x5A#8, 0x01#8, 0x0F#8, 0x01#8, 0xF7#8]
      (.parameterUpdate (.channel 1) paraOn) = true := by decide
/-- R157. -/
theorem test_decode_paraphonicMode : entryGives [0x0F#8, 0x00#8] (.paraphonicMode .off) = true := by decide
/-- 2.3: the placeholder is not validated, and `F7` is one. -/
theorem test_decode_resetLfoShapeOrder : entryGives [0x2C#8, 0xF7#8] .resetLfoShapeOrder = true := by decide
theorem test_decode_resetKeyRange : entryGives [0x2D#8, 0x00#8] .resetKeyRange = true := by decide
theorem test_decode_lfoShapeAtIndex : entryGives [0x2E#8, 0x02#8, 0x01#8] (.lfoShapeAtIndex 3 .lfoShape1) = true := by decide
theorem test_decode_lfoPhaseAtIndex : entryGives [0x2F#8, 0x04#8, 0x07#8] (.lfoPhaseAtIndex 5 315) = true := by decide
theorem test_decode_catEntry : entryGives [0x23#8, 0x18#8] (.catEntry (.unnamed 0x23) (.one (.semitoneOffset 12))) = true := by
  decide

/-- 2.3: the failures of entries in a SetParameter frame. -/
theorem test_decode_entry_failures :
    (fails (dec [0x7F#8, 0x0A#8, 0x0F#8, 0x02#8, 0xF7#8]) .invalidEnumValue &&
      fails (dec [0x7F#8, 0x0A#8, 0x3C#8, 0x00#8, 0xF7#8]) .unknownOpcode &&
      fails (dec [0x7F#8, 0x0A#8, 0x0A#8, 0x00#8, 0xF7#8]) .unknownOpcode &&
      fails (dec [0x7F#8, 0x0A#8, 0x2C#8, 0xF7#8]) .truncatedInput &&
      fails (dec [0x7F#8, 0x0A#8, 0x2E#8, 0x05#8, 0x05#8, 0xF7#8]) .invalidEnumValue &&
      fails (dec [0x7F#8, 0x0A#8, 0x2F#8, 0x00#8, 0x08#8, 0xF7#8]) .invalidEnumValue) = true := by decide

/-- 2.4 and 2.6: the order of the checks. -/
theorem test_decode_priorities :
    (fails (decodeMessage catT [0xF0#8, 0x00#8, 0x21#8, 0x99#8]) .structuralMismatch &&
      fails (dec [0x10#8, 0x0C#8, 0xF7#8]) .invalidEnumValue &&
      fails (dec [0x7F#8, 0x0C#8, 0xF7#8]) .unknownOpcode &&
      fails (dec [0x7F#8, 0x0A#8, 0x0F#8, 0x01#8, 0x00#8, 0x00#8]) .trailingBytes &&
      fails (dec [0x7F#8, 0x0A#8, 0x0F#8, 0x01#8, 0x00#8]) .structuralMismatch &&
      fails (dec [0x7F#8, 0x5A#8, 0x01#8, 0x2F#8, 0x00#8, 0x08#8, 0x00#8, 0xF7#8]) .invalidEnumValue &&
      fails (dec [0x00#8, 0x5A#8, 0x0F#8, 0x01#8, 0xF7#8]) .structuralMismatch) = true := by decide

/-- 2.4: the version string. -/
theorem test_decode_version_string :
    (gives (dec [0x7F#8, 0x74#8, 0x01#8, 0xF7#8]) (.reportVersion .broadcast []) &&
      fails (dec [0x7F#8, 0x74#8, 0x01#8, 0x31#8, 0x2E#8, 0x30#8]) .truncatedInput &&
      fails (dec [0x7F#8, 0x74#8, 0x01#8, 0x31#8, 0xF7#8, 0x32#8, 0xF7#8]) .trailingBytes &&
      fails (dec [0x7F#8, 0x74#8, 0x01#8, 0x31#8, 0x80#8, 0xF7#8]) .invalidEnumValue &&
      fails (dec [0x7F#8, 0x74#8, 0xF7#8]) .structuralMismatch) = true := by decide

/-- S9: channels 14 and 15 are distinct. -/
theorem test_decode_channels :
    (gives (dec [0x0D#8, 0x0B#8, 0xF7#8]) (.restoreParameter (.channel 14)) &&
      gives (dec [0x0E#8, 0x0B#8, 0xF7#8]) (.restoreParameter (.channel 15))) = true := by decide

/-- 2.5: the frames the encoder emits. -/
theorem test_encode_frames :
    encodeMessage catT (.setParameter (.channel 10) ⟨.unnamed 0x23, .one (.semitoneOffset (-5))⟩) =
        fr [0x09#8, 0x0A#8, 0x23#8, 0x07#8, 0xF7#8] ∧
      encodeMessage catT (.setParameter (.channel 16) ⟨.lfoPhaseAtIndex, .pair (.lfoIndex 3) (.lfoPhaseOffset 180)⟩) =
        fr [0x0F#8, 0x0A#8, 0x2F#8, 0x02#8, 0x04#8, 0xF7#8] ∧
      encodeMessage catT (.parameterUpdate (.channel 2) ⟨.lfoShapeAtIndex, .pair (.lfoIndex 1) (.lfoShape .lfoShape0)⟩) =
        fr [0x01#8, 0x5A#8, 0x01#8, 0x2E#8, 0x00#8, 0x00#8, 0xF7#8] ∧
      encodeMessage catT (.reportVersion (.channel 3) [0x31#8, 0x2E#8, 0x30#8]) =
        fr [0x02#8, 0x74#8, 0x01#8, 0x31#8, 0x2E#8, 0x30#8, 0xF7#8] := by decide

/-- 2.2. -/
theorem test_quantizer :
    [0, 1, 2, 3, 49, 50, 51, 98, 99, 100, 101, 255].map pctToLevel = [0, 0, 1, 1, 30, 31, 32, 61, 62, 63, 63, 63] := by
  decide

/-- R80, in the source's own terms. -/
theorem test_text :
    (Message.setParameter .broadcast paraOn).text = "SetParameter(Broadcast, ParaphonicMode(On))" ∧
      (Message.reportVersion .broadcast [0x31#8, 0x2E#8, 0x32#8]).text = "ReportVersion(Broadcast, \"1.2\")" ∧
      frameText [0xF0#8, 0x0A#8] = "F0 0A" := by decide

/-! ## One step on a small state -/

/-- R188, S1. -/
theorem test_step_setParameter :
    nextHas (step (startT (fr [0x7F#8, 0x0A#8, 0x0F#8, 0x01#8, 0xF7#8])))
      (fun t => t.dmsg == some (.setParameter .broadcast paraOn) && t.p == 10 && t.pop == some 0x0F#8) = true := by decide
/-- R189. -/
theorem test_step_restoreParameter :
    nextHas (step (startT (fr [0x0F#8, 0x0B#8, 0xF7#8])))
      (fun t => t.dmsg == some (.restoreParameter (.channel 16)) && t.dstatus == .ok) = true := by decide
/-- R190. -/
theorem test_step_requestVersion :
    nextHas (step (startT reqFrame)) (fun t => t.dmsg == some (.requestVersion (.channel 3)) && t.phase == .done) = true := by
  decide
/-- R191. -/
theorem test_step_reportVersion :
    nextHas (step (startT (fr [0x02#8, 0x74#8, 0x01#8, 0x31#8, 0x2E#8, 0xF7#8])))
      (fun t => t.vstr == [0x31#8, 0x2E#8] && t.p == 11 && t.dstatus == .ok) = true := by decide
/-- R192, program P4: the last state. -/
theorem test_step_parameterUpdate :
    nextHas (step (startT (fr [0x00#8, 0x5A#8, 0x01#8, 0x2F#8, 0x02#8, 0x03#8, 0xF7#8])))
      (fun t => t.fv1 == some (.lfoIndex 3) && t.fv2 == some (.lfoPhaseOffset 135) && t.p == 12) = true := by decide
/-- R157. -/
theorem test_step_paraphonicMode :
    nextHas (step (popT [0x0F#8, 0x01#8])) (fun t => t.fv1 == some (.toggle .on) && t.p == 9 && t.phase == .term) = true := by
  decide
/-- R158. -/
theorem test_step_resetLfoShapeOrder :
    nextHas (step (popT [0x2C#8, 0x5C#8])) (fun t => t.pop == some 0x2C#8 && t.fv1 == none && t.p == 9) = true := by decide
/-- R159. -/
theorem test_step_resetKeyRange :
    nextHas (step (popT [0x2D#8, 0x00#8])) (fun t => t.pop == some 0x2D#8 && t.phase == .term) = true := by decide
/-- R160. -/
theorem test_step_lfoShapeAtIndex :
    nextHas (step (popT [0x2E#8, 0x04#8, 0x04#8]))
      (fun t => t.fv1 == some (.lfoIndex 5) && t.fv2 == some (.lfoShape .lfoShape4) && t.p == 10) = true := by decide
/-- R161. -/
theorem test_step_lfoPhaseAtIndex :
    nextHas (step (popT [0x2F#8, 0x01#8, 0x02#8]))
      (fun t => t.fv1 == some (.lfoIndex 2) && t.fv2 == some (.lfoPhaseOffset 90)) = true := by decide
/-- R162. -/
theorem test_step_catEntry :
    nextHas (step (popT [0x2A#8, 0x0D#8])) (fun t => t.fv1 == some (.midiChannel 14) && t.pop == some 0x2A#8) = true := by
  decide
/-- R194: a whole encode in one move of the block. -/
theorem test_step_encode :
    nextHas (step (encT (.requestVersion (.channel 3))))
      (fun t => t.outLen == some 8 && t.outBuf.map (·.2) == reqFrame && t.estatus == .done) = true := by decide
/-- R195, R237: a frame that does not decode. -/
theorem test_step_failure :
    nextHas (step (startT (fr [0x00#8, 0x5A#8, 0x01#8, 0x0F#8, 0x01#8, 0x00#8, 0xF7#8])))
      (fun t => t.dstatus == .err && t.derr == some .trailingBytes && t.dmsg == none) = true := by decide
/-- P4 step 10: the index field. -/
theorem test_tick_fld1 :
    nextHas (tickDecoder { startT (fr [0x00#8, 0x5A#8, 0x01#8, 0x2F#8, 0x02#8, 0x03#8, 0xF7#8]) with
        phase := .fld1, p := 9, pop := some 0x2F#8 })
      (fun t => t.phase == .fld2 && t.p == 10 && t.fv1 == some (.lfoIndex 3)) = true := by decide
/-- R182: the third header byte. -/
theorem test_tick_header :
    nextHas (tickDecoder { startT [0xF0#8, 0x00#8, 0x21#8, 0x99#8] with phase := .h2, p := 2 })
      (fun t => t.derr == some .structuralMismatch && t.p == 2) = true := by decide
/-- R194: the first emit. -/
theorem test_tick_encoder :
    nextHas (tickEncoder (encT (.requestVersion .broadcast)))
      (fun t => t.outBuf == [(0, 0xF0#8)] && t.eidx == 1 && t.estatus == .busy) = true := by decide
/-- R115. -/
theorem test_quantize_request :
    nextHas (step (withReq idleT [.quantize ((50 : Nat) : Rat)])) (fun t => t.port == some (.level 31)) = true := by decide

/-- R33, assumption 11: an encode starts also where nothing has written `EMSG`. -/
theorem test_startEncode_unwritten :
    nextHas (step (withReq idleT [.startEncode])) (fun t => t.estatus == .busy && t.eidx == 0) = true := by decide
/-- R263: the requester writes `EMSG`. -/
theorem test_loadMessage :
    nextHas (step (withReq idleT [.loadMessage (.requestVersion (.channel 3))]))
      (fun t => t.messageIn == .requestVersion (.channel 3)) = true := by decide

/-! ## Witnesses: the hypotheses of each statement can be met -/

/-- Every domain. -/
def domains : List Domain :=
  [.toggle, .blendMode, .oscRange, .keyTrackMode, .semitoneOffset, .lfoIndex, .lfoShape, .lfoPhaseOffset, .modSource,
    .assignOutTarget, .envRetriggerMode, .midiChannel, .percentage]

/-- The SetParameter row's word (bytes F0 00 20 32 28 00 0A, the first byte lowest) and ParaphonicMode's, R157, R188. -/
theorem test_tableWords :
    decodeTableWord 56 0x0A0028322000F0 = some (.setParameter (.channel 1) ⟨.paraphonicMode, .one (.toggle .off)⟩) ∧
    decodeTableWord 56 0x730028322000F0 = some (.requestVersion (.channel 1)) ∧
    decodeTableWord 8 0x0F = some (.paraphonicMode .off) := by decide

theorem test_fetchWordRuns :
    nextHas (step (State.reset.withFetchWord 56 0x0A0028322000F0)) (fun t => t.dstatus == .ok) = true ∧
    nextHas (step (State.reset.withFetchWord 8 0x0F)) (fun t => t.phase == .term) = true := by decide

/-- 2.1: at the ends of each codec's range. -/
theorem witness_CodecReadsInvertWrites :
    domains.all (fun d => (d.decodeByte 0x00#8).isSome && (d.decodeByte (BitVec.ofNat 8 d.lastByte)).isSome &&
      (d.decodeByte (BitVec.ofNat 8 (d.lastByte + 1))).isNone && (d.decodeByte 0xF7#8).isNone) = true ∧
    (FieldValue.semitoneOffset (-12)).domain = .semitoneOffset ∧ (FieldValue.semitoneOffset (-12)).wf = true ∧
    Domain.semitoneOffset.decodeByte 0x18#8 = some (.semitoneOffset 12) ∧ (FieldValue.semitoneOffset 12).wf = true ∧
    (FieldValue.semitoneOffset 12).encode = (FieldValue.semitoneOffset 12).encode := by decide

theorem witness_NumericCodecArithmetic :
    (FieldValue.semitoneOffset (-12)).encode = 0x00#8 ∧ (FieldValue.semitoneOffset 12).encode = 0x18#8 ∧
    (FieldValue.lfoIndex 1).encode = 0x00#8 ∧ (FieldValue.lfoIndex 5).encode = 0x04#8 ∧
    (FieldValue.lfoPhaseOffset (45 * 0)).encode = 0x00#8 ∧ (FieldValue.lfoPhaseOffset (45 * 7)).encode = 0x07#8 ∧
    (FieldValue.midiChannel 1).encode = 0x00#8 ∧ (FieldValue.midiChannel 16).encode = 0x0F#8 ∧
    (FieldValue.percentage 0).encode = 0x00#8 ∧ (FieldValue.percentage 63).encode = 0x3F#8 := by decide

theorem witness_FieldReadChecksLengthThenValue :
    Domain.toggle.decodeByte 0x02#8 = none ∧ Domain.toggle.decodeByte 0x01#8 = some (.toggle .on) := by decide

theorem witness_FieldReadReturnsWrittenValue : (FieldValue.percentage 63).wf = true := by decide

theorem witness_QuantizerIsExactFloor :
    (63 < 64) ∧ (255 ≤ 255) ∧
      (withReq idleT [.quantize ((255 : Nat) : Rat)]).inputs = .quantize ((255 : Nat) : Rat) :: [] :=
  ⟨by decide, by decide, rfl⟩

theorem witness_DemultiplexerReadsEntryByShape :
    catT.slotAt 0x3C#8 = none ∧ catT.slotAt 0x2C#8 = some ⟨0x2C#8, .resetLfoShapeOrder, .unit⟩ ∧
    catT.slotAt 0x0F#8 = some ⟨0x0F#8, .paraphonicMode, .one .toggle⟩ ∧ Domain.toggle.decodeByte 0x02#8 = none ∧
    Domain.toggle.decodeByte 0x01#8 = some (.toggle .on) ∧
    catT.slotAt 0x2F#8 = some ⟨0x2F#8, .lfoPhaseAtIndex, .pair .lfoIndex .lfoPhaseOffset⟩ ∧
    Domain.lfoIndex.decodeByte 0x05#8 = none ∧ Domain.lfoIndex.decodeByte 0x04#8 = some (.lfoIndex 5) ∧
    Domain.lfoPhaseOffset.decodeByte 0x08#8 = none ∧ Domain.lfoPhaseOffset.decodeByte 0x07#8 = some (.lfoPhaseOffset 315) := by
  decide

theorem witness_CatalogueLaws :
    catT.cat = (⟨catT.cat, 12⟩ : Config).cat ∧ catT.Admissible ∧ paraOn.wf catT = true ∧
    paraphonicSlot ∈ catT.cat ∧ paraphonicSlot.opcode = paraphonicSlot.opcode ∧ catT.slotAt 0x3B#8 = none := by decide

theorem witness_UnassignedOpcodesAreUnknown :
    catT.Admissible ∧ addressDecodeByte 0x7F#8 = some .broadcast ∧
    (0x0C#8 : Byte) ∉ [kSet, kRestore, kReqVer, kRepVer, kUpdate] ∧ catT.slotAt 0x3B#8 = none ∧
    0x3C ≤ (0x3C#8 : Byte).toNat ∧ 0x3C ≤ (0xFF#8 : Byte).toNat := by decide

theorem witness_EntryBytesByShape :
    catT.Admissible ∧ ParameterValue.wf ⟨.resetKeyRange, .unit⟩ catT = true ∧ paraOn.wf catT = true ∧
    ParameterValue.wf ⟨.lfoPhaseAtIndex, .pair (.lfoIndex 5) (.lfoPhaseOffset 315)⟩ catT = true := by decide

theorem witness_ParaphonicModeEntry :
    catT.Admissible ∧ 0x02 ≤ (0x02#8 : Byte).toNat ∧ 0x02 ≤ (0xFF#8 : Byte).toNat := by decide

theorem witness_NamedUnitEntries :
    catT.Admissible ∧ catT.opResetLfoShapeOrder = some 0x2C#8 ∧ catT.opResetKeyRange = some 0x2D#8 := by decide

theorem witness_LfoShapeAtIndexEntry :
    catT.Admissible ∧ catT.opLfoShapeAtIndex = some 0x2E#8 ∧ (0x04#8 : Byte).toNat ≤ 4 ∧ 5 ≤ (0x05#8 : Byte).toNat := by
  decide

theorem witness_LfoPhaseAtIndexEntry :
    catT.Admissible ∧ catT.opLfoPhaseAtIndex = some 0x2F#8 ∧ (0x04#8 : Byte).toNat ≤ 4 ∧ 5 ≤ (0x05#8 : Byte).toNat ∧
    (0x07#8 : Byte).toNat ≤ 7 ∧ 8 ≤ (0x08#8 : Byte).toNat := by decide

theorem witness_HeaderIsCheckedInOrder :
    (0 < 5) ∧ header[0]? ≠ some 0xF1#8 ∧ (4 < 5) ∧ header[4]? ≠ some 0x29#8 := by decide

theorem witness_DeviceAddressByte :
    (0x0F#8 : Byte).toNat ≤ 0x0F ∧ 0x10 ≤ (0x10#8 : Byte).toNat ∧ (0x10#8 : Byte) ≠ 0x7F#8 ∧
    0x10 ≤ (0xFF#8 : Byte).toNat ∧ (0xFF#8 : Byte) ≠ 0x7F#8 ∧ 1 ≤ 1 ∧ 1 ≤ 16 ∧ 16 ≤ 16 := by decide

theorem witness_KindDispatch :
    addressDecodeByte 0x00#8 = some (.channel 1) ∧ (0x0F#8 : Byte) ∉ [kSet, kRestore, kReqVer, kRepVer, kUpdate] ∧
    gives (decodeMessage catT (header ++ 0x00#8 :: 0x73#8 :: [0xF7#8])) (.requestVersion (.channel 1)) = true := by decide

/-- Each clause at the value of the cursor where the clauses meet. -/
theorem witness_TerminatorTestsInOrder :
    ((termT []).dstatus = .busy ∧ (termT []).phase = .term ∧ (termT []).inLen ≤ (termT []).p) ∧
    ((termT [0x0F#8, 0xF7#8]).dstatus = .busy ∧ (termT [0x0F#8, 0xF7#8]).phase = .term ∧
      (termT [0x0F#8, 0xF7#8]).p + 1 < (termT [0x0F#8, 0xF7#8]).inLen) ∧
    ((termT [0x00#8]).p + 1 = (termT [0x00#8]).inLen ∧ (termT [0x00#8]).inByte (termT [0x00#8]).p ≠ 0xF7#8) ∧
    ((termT [0xF7#8]).p + 1 = (termT [0xF7#8]).inLen ∧ (termT [0xF7#8]).inByte (termT [0xF7#8]).p = 0xF7#8 ∧
      (termT [0xF7#8]).capturedMessage = some (.restoreParameter .broadcast)) := by decide

/-- What an entry reads, for the frame statements: a failure, and a value with no, one and two bytes left. -/
theorem witness_SetParameterFrames :
    addressDecodeByte 0x7F#8 = some .broadcast ∧
    (match readParameter catT [0x0F#8, 0x02#8] with | .error e => e == .invalidEnumValue | .ok _ => false) = true ∧
    (match readParameter catT [0x0F#8, 0x01#8] with | .error _ => false | .ok r => r == (paraOn, [])) = true ∧
    (match readParameter catT [0x0F#8, 0x01#8, 0x00#8, 0xF7#8] with
      | .error _ => false | .ok r => r == (paraOn, [0x00#8, 0xF7#8])) = true ∧
    (match readParameter catT [0x0F#8, 0x01#8, 0x00#8] with | .error _ => false | .ok r => r == (paraOn, [0x00#8])) = true ∧
    (match readParameter catT [0x0F#8, 0x01#8, 0xF7#8] with | .error _ => false | .ok r => r == (paraOn, [0xF7#8])) = true := by
  decide

theorem witness_PayloadlessFrames :
    addressDecodeByte 0x0F#8 = some (.channel 16) ∧ (0x00#8 : Byte) ≠ 0xF7#8 ∧
    ((0x0B#8 : Byte) = 0x0B#8 ∧ Message.restoreParameter (.channel 16) = .restoreParameter (.channel 16)) ∧
    ((0x73#8 : Byte) = 0x73#8 ∧ Message.requestVersion (.channel 16) = .requestVersion (.channel 16)) := by decide

theorem witness_ReportVersionFrames :
    addressDecodeByte 0x7F#8 = some .broadcast ∧ (∀ b ∈ [0x00#8, 0x7F#8], (b : Byte).toNat < 0x80) ∧
    0x80 ≤ (0x80#8 : Byte).toNat ∧ (0x80#8 : Byte) ≠ 0xF7#8 ∧ (0x02#8 : Byte) ≠ 0x01#8 := by decide

theorem witness_ParameterUpdateFrames : addressDecodeByte 0x00#8 = some (.channel 1) ∧ (0x0F#8 : Byte) ≠ 0x01#8 := by decide

theorem witness_FrameLengths :
    catT.Admissible ∧ Message.wf (.setParameter .broadcast paraOn) catT = true ∧
    gives (decodeMessage catT reqFrame) (.requestVersion (.channel 3)) = true := by decide

theorem witness_FramePrefix :
    catT.Admissible ∧ (Message.requestVersion (.channel 3)).wf catT = true ∧
    reqFrame = encodeMessage catT (.requestVersion (.channel 3)) := by decide

theorem witness_EmittedFrameBytes :
    catT.Admissible ∧ (Message.reportVersion .broadcast (List.replicate 7 0x7F#8)).wf catT = true := by decide

theorem witness_DecodedMessagesAreWellFormed :
    catT.Admissible ∧ reqFrame.length ≤ catT.maxFrameLen ∧
    gives (decodeMessage catT reqFrame) (.requestVersion (.channel 3)) = true := by decide

theorem witness_EnvelopeLaws :
    catT.Admissible ∧ (Message.parameterUpdate (.channel 15) paraOn).wf catT = true ∧
    gives (dec [0x7F#8, 0x0A#8, 0x2C#8, 0x5C#8, 0xF7#8]) (.setParameter .broadcast ⟨.resetLfoShapeOrder, .unit⟩) = true ∧
    0x10 ≤ (0x10#8 : Byte).toNat ∧ (0x7E#8 : Byte).toNat ≤ 0x7E ∧ ¬ (header <+: [0x12#8, 0x34#8]) := by decide

/-- A well-formed instruction of each row. -/
theorem witness_DecodeInvertsEncode :
    catT.Admissible ∧
    ([.setParameter .broadcast paraOn, .restoreParameter (.channel 16), .requestVersion (.channel 1),
      .reportVersion .broadcast [0x31#8], .parameterUpdate (.channel 1) paraOn, .paraphonicMode .off, .resetLfoShapeOrder,
      .resetKeyRange, .lfoShapeAtIndex 5 .lfoShape4, .lfoPhaseAtIndex 5 315,
      .catEntry (.unnamed 0x2B) (.one (.percentage 63))] : List Instr).all (fun i => i.wf catT) = true := by decide

theorem witness_ResetValues :
    (startT reqFrame).resetBlock = (startT reqFrame).resetBlock ∧
    (startT reqFrame).resetBlock.cfg = (startT reqFrame).cfg := ⟨rfl, rfl⟩

/-- A reset while a decode is in flight. -/
theorem witness_ResetAbandonsOperation :
    (withReq (startT reqFrame) [.reset]).inputs = .reset :: [] ∧ (startT reqFrame).dstatus = .busy := ⟨rfl, rfl⟩

theorem witness_ConfigurationNeverChanges :
    nextHas (step (startT reqFrame)) (fun t => t.cfg == catT) = true := by decide

/-- After a failure, with the kind still held. -/
theorem witness_DecodeStartsAlikeFromEveryResult :
    (withReq { idleT with dstatus := .err, derr := some .trailingBytes, phase := .done } [.startDecode]).inputs =
        .startDecode :: [] ∧
      (DStatus.err ≠ .busy) ∧ (DStatus.ok ≠ .busy) ∧ (DStatus.idle ≠ .busy) := ⟨rfl, by decide, by decide, by decide⟩

theorem witness_RefusalsAreNotErrors :
    idleT.dstatus ≠ .busy ∧ idleT.cfg.maxFrameLen < (List.replicate 17 0x00#8 : List Byte).length ∧
    idleT.cfg.maxFrameLen < 17 ∧ (startT reqFrame).dstatus = .busy ∧
    (encT (.requestVersion .broadcast)).estatus = .busy ∧
    ({ idleT with emsg := some (.requestVersion .broadcast) } : State).estatus ≠ .busy := by decide

theorem witness_LoadedFrameIsTheFrame :
    (withReq idleT [.loadFrame (List.replicate 16 0xF7#8)]).inputs = .loadFrame (List.replicate 16 0xF7#8) :: [] ∧
      idleT.dstatus ≠ .busy ∧ (List.replicate 16 0xF7#8 : List Byte).length ≤ idleT.cfg.maxFrameLen ∧
      Memory.wf idleT.inBuf ∧ (withReq idleT [.writeIn 15 0xF7#8]).inputs = .writeIn 15 0xF7#8 :: [] ∧
      15 < idleT.cfg.maxFrameLen ∧ (withReq idleT [.writeInLen 16]).inputs = .writeInLen 16 :: [] ∧
      16 ≤ idleT.cfg.maxFrameLen ∧
      (withReq idleT [.loadMessage (.requestVersion (.channel 3))]).inputs =
        .loadMessage (.requestVersion (.channel 3)) :: [] ∧
      idleT.estatus ≠ .busy ∧ (Message.requestVersion (.channel 3)).wf idleT.cfg = true ∧
      (withReq idleT [.startEncode]).inputs = .startEncode :: [] ∧ (withReq idleT [.startEncode]).emsg = none :=
  ⟨rfl, by decide, by decide, by decide, rfl, by decide, rfl, by decide, rfl, by decide, by decide, rfl, rfl⟩

theorem witness_WriteWhileBusyFaults :
    (withReq (startT reqFrame) [.loadFrame []]).inputs = .loadFrame [] :: [] ∧
      (withReq (startT reqFrame) [.writeIn 0 0x00#8]).inputs = .writeIn 0 0x00#8 :: [] ∧
      (withReq (startT reqFrame) [.writeInLen 0]).inputs = .writeInLen 0 :: [] ∧ (startT reqFrame).dstatus = .busy ∧
      (withReq (encT (.requestVersion .broadcast)) [.loadMessage (.requestVersion .broadcast)]).inputs =
        .loadMessage (.requestVersion .broadcast) :: [] ∧
      (encT (.requestVersion .broadcast)).estatus = .busy := ⟨rfl, rfl, rfl, rfl, rfl, rfl⟩

theorem witness_DecodeResultReads :
    (withReq (startT reqFrame) [.readDMsg]).inputs = .readDMsg :: [] ∧ (startT reqFrame).dstatus ≠ .ok ∧
      (withReq (startT reqFrame) [.readDErr]).inputs = .readDErr :: [] ∧ (startT reqFrame).dstatus ≠ .err ∧
      (withReq { idleT with dstatus := .ok, dmsg := some (.requestVersion .broadcast) } [.readDMsg]).dmsg =
        some (.requestVersion .broadcast) ∧
      (withReq { idleT with dstatus := .err, derr := some .unknownOpcode } [.readDErr]).derr = some .unknownOpcode :=
  ⟨rfl, by decide, rfl, by decide, rfl, rfl⟩

/-- A finished encode of two bytes, read at the last byte of the frame and at the first beyond it. -/
theorem witness_EncodeResultReads :
    (withReq { idleT with estatus := .done, outLen := some 2 } [.readOut 1]).estatus = .done ∧
    (withReq { idleT with estatus := .done, outLen := some 2 } [.readOut 1]).outLen = some 2 ∧
    (withReq idleT [.readOut 15]).estatus ≠ .done ∧ 15 < idleT.cfg.maxFrameLen ∧
      ({ idleT with estatus := .done, outLen := some 2, outBuf := [(0, 0xF0#8), (1, 0xF7#8)] } : State).outBuf.read 1 =
        some 0xF7#8 ∧
      (1 < 2) ∧ (2 ≤ 2) ∧ (withReq idleT [.readOutLen]).inputs = .readOutLen :: [] ∧ (255 ≤ 255) :=
  ⟨rfl, rfl, by decide, by decide, by decide, by decide, by decide, rfl, by decide⟩

/-- A step that goes on, from a state that shows both results and serves a request other than a start or a reset. -/
theorem witness_VisibleResultsStay :
    nextHas (step (withReq { idleT with
        dstatus := .ok, dmsg := some (.requestVersion .broadcast), estatus := .done, outLen := some 1 } [.readDMsg]))
      (fun t => t.port == some (.message (.requestVersion .broadcast))) = true := by decide

/-- States that meet the invariant and go on: after reset with CAT_T, inside a decode, inside an encode. -/
theorem witness_StepKeepsInvariant :
    idleT.Inv ∧ (startT reqFrame).Inv ∧ (encT (.requestVersion (.channel 3))).Inv ∧
      nextHas (step (startT reqFrame)) (fun t => t.dstatus == .ok) = true ∧
      nextHas (step (encT (.requestVersion (.channel 3)))) (fun t => t.estatus == .done) = true :=
  ⟨idleT_inv, startT_inv, encT_inv, by decide, by decide⟩

theorem witness_UnitsAreNeverStuck :
    (startT reqFrame).Inv ∧ (startT reqFrame).dstatus = .busy ∧ (startT reqFrame).inputs = [] ∧
      (encT (.requestVersion (.channel 3))).Inv ∧ (encT (.requestVersion (.channel 3))).estatus = .busy :=
  ⟨startT_inv, rfl, rfl, encT_inv, rfl⟩

theorem witness_CursorMovesByOne : nextHas (tickDecoder (startT reqFrame)) (fun t => t.p == 1) = true := by decide

theorem witness_FailureRecordsOnlyItsKind :
    (startT [0xF1#8]).dstatus = .busy ∧ (startT [0xF1#8]).dmsg = none ∧
      nextHas (tickDecoder (startT [0xF1#8])) (fun t => t.dstatus == .err) = true ∧
      Memory.read [(0, 0xF1#8), (5, 0x00#8)] (startT [0xF1#8]).p = (startT [0xF1#8]).inBuf.read (startT [0xF1#8]).p := by
  decide

/-- An encode of RequestVersion(Channel(3)) with one byte left to emit. -/
def lastT : State :=
  { encT (.requestVersion (.channel 3)) with eidx := 7, outBuf := Memory.writeAll [] 0 (reqFrame.take 7) }

theorem lastT_inv : lastT.Inv :=
  { encT_inv with
    buffers := ⟨by decide, by decide, by decide, by decide, by decide⟩
    encoder := ⟨by decide, fun _ => ⟨by decide, fun i h => (show ∀ i, i < 7 → lastT.outBuf.read i =
      (encodeMessage lastT.cfg lastT.messageIn)[i]? by decide) i h⟩, fun h => by simp [lastT, encT] at h⟩ }

/-- The encode that completes, in a state that meets the invariant. -/
theorem witness_ResultsAppearWhole :
    lastT.Inv ∧ lastT.estatus = .busy ∧ lastT.emsg = some (.requestVersion (.channel 3)) ∧
      nextHas (tickEncoder lastT) (fun t => t.estatus == .done) = true :=
  ⟨lastT_inv, rfl, rfl, by decide⟩

theorem witness_ResultsAppearInOneStep :
    (startT reqFrame).dmsg = none ∧ (startT reqFrame).derr = none ∧
      nextHas (tickDecoder (termT [0xF7#8])) (fun t => t.dstatus == .ok) = true ∧
      (encT (.requestVersion .broadcast)).outLen = none ∧
      nextHas (tickEncoder (encT (.requestVersion .broadcast))) (fun t => t.estatus == .busy) = true := by decide

theorem witness_RowsComputeDecode :
    (startT reqFrame).Started ∧
      gives (decodeMessage (startT reqFrame).cfg (startT reqFrame).frame) (.requestVersion (.channel 3)) = true :=
  ⟨startT_started _, by decide⟩

theorem witness_UndecodableFrameYieldsOnlyFailure :
    (startT [0x12#8, 0x34#8]).inputs = [] ∧ (startT [0x12#8, 0x34#8]).turn = .decoder ∧ (startT [0x12#8, 0x34#8]).Started ∧
      fails (decodeMessage (startT [0x12#8, 0x34#8]).cfg (startT [0x12#8, 0x34#8]).frame) .structuralMismatch = true :=
  ⟨rfl, rfl, startT_started _, by decide⟩

/-- Two started decodes on one frame that differ in what else the block holds. -/
theorem witness_DecodeResultIsFunctionOfFrame :
    (startT reqFrame).Started ∧ ({ startT reqFrame with emsg := some (.requestVersion .broadcast) } : State).Started ∧
      nextHas (runRows 9 (startT reqFrame)) (fun t => t.dstatus == .ok) = true ∧
      nextHas (runRows 9 { startT reqFrame with emsg := some (.requestVersion .broadcast) }) (fun t => t.dstatus == .ok) =
        true :=
  ⟨startT_started _, ⟨rfl, rfl, rfl, ⟨rfl, rfl, rfl, rfl, rfl, rfl⟩, rfl, rfl⟩, by decide, by decide⟩

theorem witness_WholeFrameStepEqualsRows :
    (startT reqFrame).cfg.Admissible ∧ (startT reqFrame).inLen ≤ (startT reqFrame).cfg.maxFrameLen ∧
      (startT reqFrame).inputs = [] ∧ (startT reqFrame).turn = .decoder ∧ (startT reqFrame).Started :=
  ⟨by decide, by decide, rfl, rfl, startT_started _⟩

/-- The four places where an instruction is fetched. -/
theorem witness_StepRunsFetchedInstruction :
    frameGives (startT reqFrame).remaining (.requestVersion (.channel 3)) = true ∧
      (popT [0x0F#8, 0x01#8]).phase = .pop ∧ (popT [0x0F#8, 0x01#8]).dstatus = .busy ∧
      entryGives (popT [0x0F#8, 0x01#8]).remaining (.paraphonicMode .on) = true ∧
      (encT (.requestVersion (.channel 3))).Encoding (.requestVersion (.channel 3)) ∧
      (Message.setParameter .broadcast paraOn).entry? = some (7, paraOn) ∧
      ({ encT (.setParameter .broadcast paraOn) with eidx := 7 } : State).eidx = 7 :=
  ⟨by decide, rfl, rfl, by decide, encT_encoding _, rfl, rfl⟩

theorem witness_WrittenOutFramesDecode : catT.Admissible := test_catT_admissible

theorem witness_CatalogueFrameDecodeCompletes :
    (DeviceAddress.channel 16).wf = true ∧ paraOn.wf (startT reqFrame).cfg = true ∧
      ParameterValue.wf ⟨.resetKeyRange, .unit⟩ (startT reqFrame).cfg = true ∧
      ParameterValue.wf ⟨.lfoPhaseAtIndex, .pair (.lfoIndex 5) (.lfoPhaseOffset 315)⟩ (startT reqFrame).cfg = true ∧
      (startT reqFrame).turn = .decoder ∧ (startT reqFrame).dstatus = .busy ∧ (startT reqFrame).phase = .h0 := by decide

theorem witness_PayloadlessFrameDecodeCompletes :
    DeviceAddress.broadcast.wf = true ∧ (startT reqFrame).turn = .decoder ∧ (startT reqFrame).dstatus = .busy ∧
      (startT reqFrame).phase = .h0 := by decide

theorem witness_ReportVersionDecodeCompletes :
    (∀ b ∈ (List.replicate 7 0x7F#8 : List Byte), b.toNat < 0x80) ∧
      (List.replicate 7 0x7F#8 : List Byte).length + 9 ≤ (startT reqFrame).cfg.maxFrameLen ∧
      (startT reqFrame).turn = .decoder ∧ (startT reqFrame).dstatus = .busy ∧ (startT reqFrame).phase = .h0 := by decide

theorem witness_FrameEncodeCompletes :
    catT.Admissible ∧ (Message.requestVersion (.channel 3)).wf catT = true ∧
      Memory.wf (encT (.requestVersion (.channel 3))).outBuf ∧ (encT (.requestVersion (.channel 3))).turn = .encoder ∧
      (encT (.requestVersion (.channel 3))).estatus = .busy ∧ (encT (.requestVersion (.channel 3))).eidx = 0 := by decide

/-- An entry instruction of each of the six rows. -/
theorem witness_EntryDecodeCompletes :
    ([.paraphonicMode .on, .resetLfoShapeOrder, .resetKeyRange, .lfoShapeAtIndex 1 .lfoShape0, .lfoPhaseAtIndex 1 0,
      .catEntry (.unnamed 0x20) (.one (.blendMode .switch))] : List Instr).all
        (fun i => i.parameter?.isSome && i.wf (popT []).cfg) = true ∧
      (popT []).turn = .decoder ∧ (popT []).dstatus = .busy ∧ (popT []).phase = .pop := by decide

theorem witness_EntryEncodeCompletes :
    ([.paraphonicMode .on, .resetLfoShapeOrder, .resetKeyRange, .lfoShapeAtIndex 1 .lfoShape0, .lfoPhaseAtIndex 1 0,
      .catEntry (.unnamed 0x20) (.one (.blendMode .switch))] : List Instr).all
        (fun i => i.parameter?.isSome && i.wf catT) = true ∧
      (encT (.setParameter .broadcast paraOn)).turn = .encoder ∧
      (encT (.setParameter .broadcast paraOn)).estatus = .busy ∧
      Memory.wf (encT (.setParameter .broadcast paraOn)).outBuf ∧
      13 + (Payload.pair (.lfoIndex 1) (.lfoPhaseOffset 0)).entryLength ≤ catT.maxFrameLen := by
  decide

theorem witness_EmitsComputeEncode :
    catT.Admissible ∧ (Message.setParameter .broadcast paraOn).wf catT = true ∧
      Memory.wf (encT (.setParameter .broadcast paraOn)).outBuf ∧
      (encT (.setParameter .broadcast paraOn)).Encoding (.setParameter .broadcast paraOn) ∧
      9 < (Message.setParameter .broadcast paraOn).frameLength :=
  ⟨by decide, by decide, by decide, encT_encoding _, by decide⟩

theorem witness_EncoderAndQuantizerNeverFail :
    (encT (.requestVersion (.channel 3))).Inv ∧ (encT (.requestVersion (.channel 3))).inputs = [] ∧
      (encT (.requestVersion (.channel 3))).turn = .encoder ∧
      (encT (.requestVersion (.channel 3))).Encoding (.requestVersion (.channel 3)) ∧
      (withReq idleT [.quantize (((0xFF#8 : Byte).toNat : Nat) : Rat)]).inputs =
        .quantize (((0xFF#8 : Byte).toNat : Nat) : Rat) :: [] :=
  ⟨encT_inv, rfl, rfl, encT_encoding _, rfl⟩

/-- Both units inside an operation, each with a step to do. -/
theorem witness_UnitStepsCommute :
    nextHas (tickDecoder { startT reqFrame with emsg := some (.requestVersion .broadcast), estatus := .busy })
        (fun t => t.p == 1) = true ∧
      nextHas (tickEncoder { startT reqFrame with emsg := some (.requestVersion .broadcast), estatus := .busy })
        (fun t => t.eidx == 1) = true := by decide

theorem witness_LoadStartMoveDecodesMessage :
    (withReq idleT [.loadFrame (encodeMessage catT (.requestVersion (.channel 3))), .startDecode]).Inv ∧
      idleT.dstatus ≠ .busy ∧ (Message.requestVersion (.channel 3)).wf catT = true ∧
      (withReq idleT [.loadMessage (.requestVersion (.channel 3)), .startEncode]).Inv ∧ idleT.estatus ≠ .busy :=
  ⟨⟨idleT_inv.config, idleT_inv.buffers, idleT_inv.results, idleT_inv.phases, idleT_inv.cursor, idleT_inv.captures,
    idleT_inv.emsg, idleT_inv.encoder⟩, by decide, by decide,
    ⟨idleT_inv.config, idleT_inv.buffers, idleT_inv.results, idleT_inv.phases, idleT_inv.cursor, idleT_inv.captures,
      idleT_inv.emsg, idleT_inv.encoder⟩, by decide⟩

end Sys2Proof.Tests
end

section
/-! SUPPORT. Frame lengths and types (R26, R63, R66): how long an encoded entry and an encoded or decoded frame is, and
that what decodes is a value of type Message. -/

namespace Sys2Proof

theorem Payload.encode_length (p : Payload) : p.encode.length + 1 = p.entryLength := by
  cases p <;> rfl

/-- R63: a well-formed entry is encoded in its opcode and its payload. -/
theorem encodeParameter_length {c : Config} {pv : ParameterValue} (h : pv.wf c = true) :
    (encodeParameter c pv).length = pv.payload.entryLength := by
  obtain ⟨e, -, -, hop, -⟩ := ParameterValue.wf_slot h
  simp [encodeParameter, hop, Payload.encode_length]

/-- R66: a message of type Message is encoded in a frame of its length. -/
theorem encodeMessage_length {c : Config} {m : Message} (h : m.wf c = true) :
    (encodeMessage c m).length = m.frameLength := by
  have hbody : (encodeMessage c m).length = (encodeBody c m).length + 7 := by simp [encodeMessage, header]
  rw [hbody]
  cases m with
  | setParameter a pv =>
    simp only [Message.wf, Bool.and_eq_true] at h
    simp only [encodeBody, Message.frameLength, List.length_cons, encodeParameter_length h.2]
    omega
  | restoreParameter a => rfl
  | requestVersion a => rfl
  | reportVersion a v =>
    simp only [encodeBody, Message.frameLength, List.length_cons]
    omega
  | parameterUpdate a pv =>
    simp only [Message.wf, Bool.and_eq_true] at h
    simp only [encodeBody, Message.frameLength, List.length_cons, encodeParameter_length h.2]
    omega

/-- An entry read up to the terminator took all bytes but the terminator. -/
theorem readParameter_length {c : Config} {bs : List Byte} {pv : ParameterValue} (hc : c.Admissible)
    (h : readParameter c bs = .ok (pv, [eox])) : bs.length = pv.payload.entryLength + 1 := by
  obtain ⟨-, pre, rfl, hl⟩ := readParameter_wf hc h
  simp [hl]

/-- R66: a frame that decodes has its message's length. -/
theorem decodeMessage_length {c : Config} {bs : List Byte} {m : Message} (hc : c.Admissible)
    (h : decodeMessage c bs = .ok m) : bs.length = m.frameLength := by
  obtain ⟨v, k, r, a, rfl, -, hk⟩ := decodeMessage_ok h
  have hl : (header ++ v :: k :: r).length = r.length + 7 := by simp [header]
  rw [hl]
  rcases decodeKind_ok hk with ⟨pv, -, hr, rfl⟩ | ⟨-, rfl, rfl⟩ | ⟨-, rfl, rfl⟩ | ⟨s, -, rfl, -, rfl⟩ |
    ⟨pv, r', -, rfl, hr, rfl⟩
  · simp only [Message.frameLength, readParameter_length hc hr]
    omega
  · rfl
  · rfl
  · simp only [Message.frameLength, List.length_cons, List.length_append, List.length_nil]
    omega
  · simp only [Message.frameLength, List.length_cons, readParameter_length hc hr]
    omega

/-- R26, R180: a frame that fits the buffer decodes to a value of type Message. -/
theorem decodeMessage_wf {c : Config} {bs : List Byte} {m : Message} (hc : c.Admissible)
    (hl : bs.length ≤ c.maxFrameLen) (h : decodeMessage c bs = .ok m) : m.wf c = true := by
  have hlen := decodeMessage_length hc h
  obtain ⟨v, k, r, a, rfl, ha, hk⟩ := decodeMessage_ok h
  have haw := addressDecodeByte_wf ha
  rcases decodeKind_ok hk with ⟨pv, -, hr, rfl⟩ | ⟨-, -, rfl⟩ | ⟨-, -, rfl⟩ | ⟨s, -, -, hs, rfl⟩ |
    ⟨pv, r', -, -, hr, rfl⟩
  · simp [Message.wf, haw, (readParameter_wf hc hr).1]
  · exact haw
  · exact haw
  · have hfit : s.length + 9 ≤ c.maxFrameLen := by
      simp only [Message.frameLength] at hlen
      omega
    simpa [Message.wf, haw, versionStringWf, hfit] using hs
  · simp [Message.wf, haw, (readParameter_wf hc hr).1]

/-- The frame at the cursor is the frame of the message it decodes to. -/
theorem decode_frame_ok {c : Config} {bs : List Byte} {i : Instr} (h : decode c .frame bs = .ok i) :
    ∃ m, decodeMessage c bs = .ok m ∧ m.toInstr = i := by
  cases hd : decodeMessage c bs with
  | error e => simp [decode, hd, Except.map] at h
  | ok m => exact ⟨m, rfl, by simpa [decode, hd, Except.map] using h⟩

/-- The entry at the cursor is the entry of the parameter value it reads as. -/
theorem decode_entry_ok {c : Config} {bs : List Byte} {i : Instr} (h : decode c .entry bs = .ok i) :
    ∃ pv rest, readParameter c bs = .ok (pv, rest) ∧ pv.toInstr = i := by
  cases hd : readParameter c bs with
  | error e => simp [decode, hd, Except.map] at h
  | ok r => exact ⟨r.1, r.2, rfl, by simpa [decode, hd, Except.map] using h⟩

/-- R64: where a message has an entry, the entry's bytes stand in its frame at that place, with the terminator after
them. -/
theorem Message.entry?_encode {c : Config} {m : Message} {n : Nat} {pv : ParameterValue}
    (he : m.entry? = some (n, pv)) : (encodeMessage c m).drop n = encodeParameter c pv ++ [eox] := by
  cases m <;> simp only [Message.entry?, Option.some.injEq, Prod.mk.injEq, reduceCtorEq] at he <;>
    obtain ⟨rfl, rfl⟩ := he <;> rfl

/-- Settles O26: by the arms of the kind dispatch, each of which reads values of the spec's types. -/
theorem decodedMessagesAreWellFormed : Obligations.DecodedMessagesAreWellFormed := by
  intro c bs m hc hl h
  exact decodeMessage_wf hc hl h

end Sys2Proof
end

section
/-! SUPPORT. What a request, an instruction and a unit's own move can do when they go on: one inversion lemma each. From
them the statements about reads and about the configuration. -/

namespace Sys2Proof.Machine

/-- A waiting request is what the step serves. -/
theorem step_request {s : State} {r : Request} {rest : List Request} (h : s.inputs = r :: rest) :
    step s = serve r { s with inputs := rest } := by
  simp [step, h]

/-! ## Requests -/

section
variable {s t : State}

theorem loadFrame_next {bs : List Byte} (h : loadFrame bs s = .next t) :
    s.dstatus ≠ .busy ∧ bs.length ≤ s.cfg.maxFrameLen ∧
      t = { s with inBuf := s.inBuf.writeAll 0 bs, inLen := bs.length } := by
  simp only [loadFrame] at h
  split at h
  · cases h
  · split at h
    · cases h
    · cases h
      exact ⟨by assumption, by omega, rfl⟩

theorem writeIn_next {a : Nat} {b : Byte} (h : writeIn a b s = .next t) :
    s.dstatus ≠ .busy ∧ a < s.cfg.maxFrameLen ∧ t = { s with inBuf := s.inBuf.write a b } := by
  simp only [writeIn] at h
  split at h
  · cases h
  · split at h
    · cases h
    · cases h
      exact ⟨by assumption, by omega, rfl⟩

theorem writeInLen_next {n : Nat} (h : writeInLen n s = .next t) :
    s.dstatus ≠ .busy ∧ n ≤ s.cfg.maxFrameLen ∧ t = { s with inLen := n } := by
  simp only [writeInLen] at h
  split at h
  · cases h
  · split at h
    · cases h
    · cases h
      exact ⟨by assumption, by omega, rfl⟩

theorem startDecode_next (h : startDecode s = .next t) : s.dstatus ≠ .busy ∧ t = s.beginDecode := by
  simp only [startDecode] at h
  split at h
  · cases h
  · cases h
    exact ⟨by assumption, rfl⟩

theorem loadMessage_next {m : Message} (h : loadMessage m s = .next t) :
    s.estatus ≠ .busy ∧ m.wf s.cfg = true ∧ t = { s with emsg := some m } := by
  simp only [loadMessage] at h
  split at h
  · cases h
  · split at h
    · cases h
      exact ⟨by assumption, by assumption, rfl⟩
    · cases h

theorem startEncode_next (h : startEncode s = .next t) : s.estatus ≠ .busy ∧ t = s.beginEncode := by
  simp only [startEncode] at h
  split at h
  · cases h
  · cases h
    exact ⟨by assumption, rfl⟩

theorem quantize_next {x : Rat} (h : quantize x s = .next t) : ∃ v, t = { s with port := v } := by
  simp only [quantize] at h
  split at h
  · cases h
    exact ⟨_, rfl⟩
  · cases h

theorem readDMsg_next (h : readDMsg s = .next t) : ∃ v, t = { s with port := v } := by
  simp only [readDMsg] at h
  split at h
  · cases h
    exact ⟨_, rfl⟩
  · cases h

theorem readDErr_next (h : readDErr s = .next t) : ∃ v, t = { s with port := v } := by
  simp only [readDErr] at h
  split at h
  · cases h
    exact ⟨_, rfl⟩
  · cases h

theorem readOut_next {i : Nat} (h : readOut i s = .next t) : ∃ v, t = { s with port := v } := by
  simp only [readOut] at h
  split at h
  · cases h
  · split at h
    · cases h
    · split at h
      · cases h
        exact ⟨_, rfl⟩
      · cases h

theorem readOutLen_next (h : readOutLen s = .next t) : ∃ v, t = { s with port := v } := by
  simp only [readOutLen] at h
  split at h
  · cases h
    exact ⟨_, rfl⟩
  · cases h

/-- Everything a request can do when it goes on: present a value, reset the block, let a unit step; while the decoder is
not BUSY write `IN` or `IN_LEN` inside the space or start a decode; while the encoder is not BUSY write `EMSG` or start an
encode. A write of `IN_LEN` alone stores no byte, and a write of one byte keeps `IN_LEN`. -/
theorem serve_next {r : Request} (h : serve r s = .next t) :
    (∃ v, t = { s with port := v }) ∨ t = s.resetBlock ∨ (∃ u, tick u s = .next t) ∨
      (s.dstatus ≠ .busy ∧ (t = s.beginDecode ∨
        ∃ a bs n, a + bs.length ≤ s.cfg.maxFrameLen ∧ (n = s.inLen ∨ n ≤ s.cfg.maxFrameLen) ∧
          t = { s with inBuf := s.inBuf.writeAll a bs, inLen := n })) ∨
      (s.estatus ≠ .busy ∧ (t = s.beginEncode ∨ ∃ m, m.wf s.cfg = true ∧ t = { s with emsg := some m })) := by
  cases r with
  | loadFrame bs =>
    obtain ⟨hb, hl, ht⟩ := loadFrame_next h
    exact .inr (.inr (.inr (.inl ⟨hb, .inr ⟨0, bs, bs.length, by omega, .inr hl, ht⟩⟩)))
  | writeIn a b =>
    obtain ⟨hb, ha, ht⟩ := writeIn_next h
    exact .inr (.inr (.inr (.inl ⟨hb, .inr ⟨a, [b], s.inLen, ha, .inl rfl, ht⟩⟩)))
  | writeInLen n =>
    obtain ⟨hb, hn, ht⟩ := writeInLen_next h
    exact .inr (.inr (.inr (.inl ⟨hb, .inr ⟨0, [], n, Nat.zero_le _, .inr hn, ht⟩⟩)))
  | startDecode =>
    obtain ⟨hb, ht⟩ := startDecode_next h
    exact .inr (.inr (.inr (.inl ⟨hb, .inl ht⟩)))
  | loadMessage m =>
    obtain ⟨hb, hm, ht⟩ := loadMessage_next h
    exact .inr (.inr (.inr (.inr ⟨hb, .inr ⟨m, hm, ht⟩⟩)))
  | startEncode =>
    obtain ⟨hb, ht⟩ := startEncode_next h
    exact .inr (.inr (.inr (.inr ⟨hb, .inl ht⟩)))
  | quantize x => exact .inl (quantize_next h)
  | readDStatus => cases h; exact .inl ⟨_, rfl⟩
  | readDMsg => exact .inl (readDMsg_next h)
  | readDErr => exact .inl (readDErr_next h)
  | readEStatus => cases h; exact .inl ⟨_, rfl⟩
  | readOut i => exact .inl (readOut_next h)
  | readOutLen => exact .inl (readOutLen_next h)
  | reset => cases h; exact .inr (.inl rfl)
  | tick u => exact .inr (.inr (.inl ⟨u, h⟩))

/-! ## The units' moves -/

/-- Everything the decoder's own move can do when it goes on: the frame that starts here decodes and is run, the entry at
the cursor is read and is run, or rows run. -/
theorem moveDecoder_next (h : moveDecoder s = .next t) :
    (s.phase = .h0 ∧ ∃ m, decodeMessage s.cfg s.remaining = .ok m ∧
      runFrame m (frameArm m) (encodeMessage s.cfg m) s = .next t) ∨
    (s.phase = .pop ∧ ∃ pv rest, readParameter s.cfg s.remaining = .ok (pv, rest) ∧ runEntry pv s = .next t) ∨
    (∃ n, runRows n s = .next t) ∨ row s = .next t := by
  simp only [moveDecoder] at h
  split at h
  · rename_i f hf
    split at h
    · rename_i i hi
      cases f with
      | frame =>
        obtain ⟨m, hm, rfl⟩ := decode_frame_ok hi
        have hph : s.phase = .h0 := by
          cases hp : s.phase <;> simp [State.fetchKind, hp] at hf ⊢
        exact .inl ⟨hph, m, hm, exec_toInstr m s ▸ h⟩
      | entry =>
        obtain ⟨pv, rest, hr, rfl⟩ := decode_entry_ok hi
        have hph : s.phase = .pop := by
          cases hp : s.phase <;> simp [State.fetchKind, hp] at hf ⊢
        exact .inr (.inl ⟨hph, pv, rest, hr, exec_parameter (parameter?_toInstr pv) s ▸ h⟩)
    · exact .inr (.inr (.inl ⟨_, h⟩))
  · exact .inr (.inr (.inr h))

/-- Everything the encoder's own move can do when it goes on: run the whole frame at index 0, run the entry where it
begins, or emit one byte. -/
theorem moveEncoder_next (h : moveEncoder s = .next t) :
    (s.eidx = 0 ∧ runFrame s.messageIn (frameArm s.messageIn) (encodeMessage s.cfg s.messageIn) s = .next t) ∨
    (∃ pv, s.messageIn.entry? = some (s.eidx, pv) ∧ runEntry pv s = .next t) ∨ emitNext s = .next t := by
  simp only [moveEncoder] at h
  split at h
  · exact .inl ⟨by assumption, exec_toInstr s.messageIn s ▸ h⟩
  · split at h
    · exact .inr (.inr h)
    · rename_i n pv he
      split at h
      · rename_i hn
        exact .inr (.inl ⟨pv, hn ▸ he, exec_parameter (parameter?_toInstr pv) s ▸ h⟩)
      · exact .inr (.inr h)

/-- A decode of a message writes the decoder's registers only. -/
theorem frameArm_keepsOutsideDecoder (m : Message) (s : State) : s.KeepsOutsideDecoder (frameArm m s) := by
  cases m <;> simp [frameArm, State.takeVersion, State.KeepsOutsideDecoder]

/-- A decode of a message ends OK, with the message presented and the cursor past its frame. -/
theorem frameArm_result (m : Message) (s : State) :
    (frameArm m s).dstatus = .ok ∧ (frameArm m s).phase = .done ∧ (frameArm m s).dmsg = some m ∧
      (frameArm m s).derr = s.derr ∧ (frameArm m s).p = s.p + m.frameLength := by
  cases m <;> simp [frameArm, State.takeVersion, Message.frameLength] <;> omega

end

/-! ## The configuration (R22, R261, R262) -/

section
variable {s t : State}

theorem runFrame_cfg {m : Message} {bs : List Byte} (h : runFrame m (frameArm m) bs s = .next t) : t.cfg = s.cfg := by
  obtain ⟨-, ⟨-, -, -, rfl⟩ | ⟨-, -, -, -, rfl⟩⟩ := runFrame_next h
  · exact (frameArm_keepsOutsideDecoder m s).1
  · rfl

theorem runEntry_cfg {pv : ParameterValue} (h : runEntry pv s = .next t) : t.cfg = s.cfg := by
  obtain ⟨-, ⟨-, -, -, rfl⟩ | ⟨-, -, -, rfl⟩⟩ := runEntry_next h
  · simp
  · rfl

theorem row_cfg (h : row s = .next t) : t.cfg = s.cfg := by
  rcases row_next h with ⟨e, rfl⟩ | ⟨-, m, rfl⟩ | ⟨-, a, k, op, f1, f2, v, ph, rfl⟩ | ⟨-, rfl⟩ <;> rfl

theorem emitNext_cfg (h : emitNext s = .next t) : t.cfg = s.cfg := by
  obtain ⟨v, -, -, rfl⟩ := emitNext_next h
  simp only [doneAfter]
  split <;> rfl

theorem tick_cfg {u : Agent} (h : tick u s = .next t) : t.cfg = s.cfg := by
  cases u with
  | decoder =>
    simp only [tick, tickDecoder] at h
    split at h
    · exact row_cfg h
    · cases h; rfl
  | encoder =>
    simp only [tick, tickEncoder] at h
    split at h
    · exact emitNext_cfg h
    · cases h; rfl

theorem serve_cfg {r : Request} (h : serve r s = .next t) : t.cfg = s.cfg := by
  rcases serve_next h with ⟨v, rfl⟩ | rfl | ⟨u, hu⟩ | ⟨-, rfl | ⟨a, bs, n, -, -, rfl⟩⟩ | ⟨-, rfl | ⟨m, -, rfl⟩⟩
  case inr.inr.inl => exact tick_cfg hu
  all_goals rfl

theorem moveDecoder_cfg (h : moveDecoder s = .next t) : t.cfg = s.cfg := by
  rcases moveDecoder_next h with ⟨-, m, -, hm⟩ | ⟨-, pv, rest, -, hp⟩ | ⟨n, hn⟩ | hr
  · exact runFrame_cfg hm
  · exact runEntry_cfg hp
  · exact runRows_keeps (P := fun u => u.cfg = s.cfg) (fun u w hu _ hw => (row_cfg hw).trans hu) n rfl hn
  · exact row_cfg hr

theorem moveEncoder_cfg (h : moveEncoder s = .next t) : t.cfg = s.cfg := by
  rcases moveEncoder_next h with ⟨-, hm⟩ | ⟨pv, -, hp⟩ | he
  · exact runFrame_cfg hm
  · exact runEntry_cfg hp
  · exact emitNext_cfg he

end

/-- Settles O31: no request and no unit's move writes the configuration. -/
theorem configurationNeverChanges : Obligations.ConfigurationNeverChanges := by
  intro s t h
  rcases step_cases s with ⟨r, rest, -, hs⟩ | ⟨-, hs⟩
  · have ht := serve_cfg (hs ▸ h)
    exact ht
  · rcases moveBlock_next (hs ▸ h) with ⟨-, rfl⟩ | ⟨-, -, hm⟩ | ⟨-, -, hm⟩
    · rfl
    · have ht := moveDecoder_cfg hm
      exact ht
    · have ht := moveEncoder_cfg hm
      exact ht

/-! ## Reset, reads and the cursor -/

/-- Settles O29: reset and `beginDecode` write these values, field by field. -/
theorem resetValues : Obligations.ResetValues := by
  refine ⟨?_, State.resetBlock_cfg, fun u => ⟨rfl, rfl, rfl⟩⟩
  rintro s (rfl | ⟨u, rfl, -⟩)
  · exact ⟨rfl, rfl, rfl, rfl, rfl, rfl, rfl, rfl, rfl, rfl, rfl, rfl, rfl, rfl⟩
  · simp

/-- Settles O36: `DMSG` and `DERR` are visible in their own status only. -/
theorem decodeResultReads : Obligations.DecodeResultReads := by
  refine fun s rest => ⟨fun h hs => ?_, fun h hs => ?_, fun m h hs hm => ?_, fun e h hs he => ?_, step_request⟩
  · simp [step_request h, serve, readDMsg, State.visibleDMsg, hs]
  · simp [step_request h, serve, readDErr, State.visibleDErr, hs]
  · simp [step_request h, serve, readDMsg, State.visibleDMsg, hs, hm]
  · simp [step_request h, serve, readDErr, State.visibleDErr, hs, he]

/-- A natural number is an integer of the quantizer's port up to 255 (R115). -/
theorem quantize_natCast {x : Nat} (h : x ≤ 255) (s : State) :
    quantize (x : Rat) s = .next { s with port := some (.level (pctToLevel x)) } := by
  have hport : (x : Rat).den = 1 ∧ 0 ≤ (x : Rat).num ∧ (x : Rat).num ≤ 255 := by
    rw [Rat.num_natCast]
    exact ⟨Rat.den_natCast x, by omega, by omega⟩
  rw [quantize, if_pos hport, Rat.num_natCast, Int.toNat_natCast]

/-- `OUT` has no value at or beyond the visible `OUT_LEN`. -/
theorem readOut_beyond {s : State} {i n : Nat} (hl : s.outLen = some n) (hn : n ≤ i) (hi : i < s.cfg.maxFrameLen) :
    readOut i s = .fault (.noValue .out) := by
  by_cases hd : s.estatus = .done
  · simp [readOut, State.visibleOutLen, hd, hl, Nat.not_le.2 hi, Nat.not_lt.2 hn]
  · simp [readOut, State.visibleOutLen, hd, Nat.not_le.2 hi]

/-- Settles O37: `OUT` and `OUT_LEN` are visible while DONE only, and the quantizer only presents its level. -/
theorem encodeResultReads : Obligations.EncodeResultReads := by
  refine fun s rest => ⟨fun i h hs hi => ?_, fun h hs => ?_, fun i n h hl hn hi => ?_, fun i n h hs hl hin hi => ?_,
    fun n h hs hl => ?_, step_request, fun x hx h => ?_⟩
  · simp [step_request h, serve, readOut, State.visibleOutLen, hs, Nat.not_le.2 hi]
  · simp [step_request h, serve, readOutLen, State.visibleOutLen, hs]
  · rw [step_request h]
    exact readOut_beyond hl hn hi
  · refine ⟨?_, fun b hb => State.outByte_written hb⟩
    simp only [step_request h, serve, readOut, State.visibleOutLen, if_neg (Nat.not_le.2 hi), hs, hl, if_true, if_pos hin]
    rfl
  · simp [step_request h, serve, readOutLen, State.visibleOutLen, hs, hl]
  · rw [step_request h]
    exact quantize_natCast hx _

/-- Settles O42: a row raises a failure at the cursor's place or consumes one byte below `IN_LEN`. -/
theorem cursorMovesByOne : Obligations.CursorMovesByOne := by
  refine ⟨rfl, fun s => rfl, fun s t h => ?_⟩
  simp only [tickDecoder] at h
  split at h
  · rcases row_next h with ⟨e, rfl⟩ | ⟨hp, m, rfl⟩ | ⟨hp, a, k, op, f1, f2, v, ph, rfl⟩ | ⟨-, rfl⟩
    · exact .inr ⟨rfl, .inl rfl⟩
    · exact .inl ⟨rfl, hp⟩
    · exact .inl ⟨rfl, hp⟩
    · exact .inr ⟨rfl, .inr rfl⟩
  · cases h
    exact .inr ⟨rfl, .inr rfl⟩

end Sys2Proof.Machine
end

section
/-! SUPPORT. The invariant, decoder side: what keeps it when only the decoder's registers change, row by row (R196) and
for a whole frame or entry. -/

namespace Sys2Proof.Machine

/-! ## What the invariant says while BUSY -/

/-- Inside the frame: where the cursor reads a byte, it stands below `IN_LEN`. -/
theorem State.cursor_some {s : State} {v : Byte} (h : s.cursor = some v) : s.p < s.inLen := by
  simp only [State.cursor, Option.ite_none_right_eq_some] at h
  exact h.1

namespace State.Inv

variable {s t : State}

/-- R31: an operation in flight has no result. -/
theorem no_result (h : s.Inv) (hb : s.dstatus = .busy) : s.dmsg = none ∧ s.derr = none := by
  obtain ⟨hm, he, -⟩ := h.results
  simp only [hb, reduceCtorEq, iff_false, Bool.not_eq_true, Option.isSome_eq_false_iff, Option.isNone_iff_eq_none]
    at hm he
  exact ⟨hm, he⟩

/-! ## Updates of the decoder's registers -/

/-- A change of the decoder's registers alone leaves the invariant's parts about the configuration, the buffers and the
encoder. -/
theorem of_keepsOutsideDecoder (h : s.Inv) (hk : s.KeepsOutsideDecoder t) (hr : t.ResultsOk) (hph : t.PhaseOk)
    (hcu : t.CursorOk) (hca : t.dstatus = .busy → t.CapturesOk) : t.Inv := by
  obtain ⟨hcfg, hin, hlen, hem, hes, hei, hob, hol, -, -, -, hep⟩ := hk
  have hmsg := State.messageIn_congr hcfg hem hep
  refine ⟨hcfg ▸ h.config, ?_, hr, hph, hcu, hca, ?_, ?_⟩
  · simpa only [State.BuffersOk, hcfg, hin, hlen, hob] using h.buffers
  · simpa only [State.EmsgOk, hcfg, hmsg] using h.emsg
  · simpa only [State.EncoderOk, State.OutHolds, hcfg, hmsg, hes, hei, hob, hol] using h.encoder

/-- R237: taking a failure keeps the invariant. -/
theorem raise (h : s.Inv) (hb : s.dstatus = .busy) (e : ErrorKind) : (s.raise e).Inv := by
  have hm := (h.no_result hb).1
  refine h.of_keepsOutsideDecoder ⟨rfl, rfl, rfl, rfl, rfl, rfl, rfl, rfl, rfl, rfl, rfl, rfl⟩ ?_ ?_ ?_ ?_
  · simp [State.ResultsOk, hm]
  · simp [State.PhaseOk]
  · simpa [State.CursorOk] using h.cursor.1
  · simp

/-- R193: presenting a message of type Message keeps the invariant, wherever in the buffer's range the cursor ends. -/
theorem present {m : Message} (h : s.Inv) (hb : s.dstatus = .busy) (hk : s.KeepsOutsideDecoder t)
    (hm : m.wf s.cfg = true) (hst : t.dstatus = .ok) (hph : t.phase = .done) (hdm : t.dmsg = some m)
    (hde : t.derr = s.derr) (hp : t.p ≤ s.cfg.maxFrameLen) : t.Inv := by
  have hcfg : t.cfg = s.cfg := hk.1
  refine h.of_keepsOutsideDecoder hk ?_ ?_ ?_ ?_
  · simp [State.ResultsOk, hdm, hde, hst, (h.no_result hb).2, hcfg, hm]
  · simp [State.PhaseOk, hst, hph]
  · simp [State.CursorOk, hst, hcfg, hp]
  · simp [hst]

/-- R196: consuming bytes of the frame and staying BUSY keeps the invariant where the captures fit the next phase. -/
theorem stay_busy (h : s.Inv) (hb : s.dstatus = .busy) (hk : s.KeepsOutsideDecoder t) (hst : t.dstatus = s.dstatus)
    (hdm : t.dmsg = s.dmsg) (hde : t.derr = s.derr) (hp : t.p ≤ s.inLen) (hph : t.phase ≠ .done) (hca : t.CapturesOk) :
    t.Inv := by
  obtain ⟨hm, he⟩ := h.no_result hb
  obtain ⟨-, -, -, -, hfit⟩ := h.buffers
  have hcfg : t.cfg = s.cfg := hk.1
  have hlen : t.inLen = s.inLen := hk.2.2.1
  refine h.of_keepsOutsideDecoder hk ?_ ?_ ?_ fun _ => hca
  · simp [State.ResultsOk, hdm, hde, hst, hm, he, hb]
  · simp [State.PhaseOk, hst, hb, hph]
  · rw [State.CursorOk, hcfg, hlen]
    exact ⟨hp.trans hfit, fun _ => hp⟩

/-- R196 "accept": presenting a message at the byte consumed keeps the invariant. -/
theorem accept {m : Message} (h : s.Inv) (hb : s.dstatus = .busy) (hm : m.wf s.cfg = true) (hp : s.p < s.inLen) :
    (s.accept m).Inv := by
  obtain ⟨-, -, -, -, hfit⟩ := h.buffers
  exact h.present hb ⟨rfl, rfl, rfl, rfl, rfl, rfl, rfl, rfl, rfl, rfl, rfl, rfl⟩ hm rfl rfl rfl rfl (hp.trans_le hfit)

/-- R27, R196: one byte consumed, with any captures, keeps the invariant where the captures fit the next phase. -/
theorem consume {a : Option DeviceAddress} {k op : Option Byte} {f1 f2 : Option FieldValue} {v : List Byte} {ph : Phase}
    (h : s.Inv) (hb : s.dstatus = .busy) (hp : s.p < s.inLen) (hph : ph ≠ .done)
    (hca : ({ s with addr := a, kind := k, pop := op, fv1 := f1, fv2 := f2, vstr := v, phase := ph, p := s.p + 1 } :
      State).CapturesOk) :
    ({ s with addr := a, kind := k, pop := op, fv1 := f1, fv2 := f2, vstr := v, phase := ph, p := s.p + 1 } :
      State).Inv :=
  h.stay_busy hb ⟨rfl, rfl, rfl, rfl, rfl, rfl, rfl, rfl, rfl, rfl, rfl, rfl⟩ rfl rfl rfl hp hph hca

end State.Inv

/-! ## Captured parameters and messages -/

/-- R25: a slot's name with a well-formed payload of the slot's shape is a value of type ParameterValue. -/
theorem parameterValue_wf_of_slotAt {c : Config} (hc : c.Admissible) {op : Byte} {e : Slot} {p : Payload}
    (he : c.slotAt op = some e) (hs : p.shape = e.shape) (hw : p.wf = true) :
    ParameterValue.wf ⟨e.name, p⟩ c = true := by
  simp [ParameterValue.wf, (Config.opcodeOf_of_slotAt hc he).2, hs, hw]

theorem State.popSlot_some {s : State} {e : Slot} (h : s.popSlot = some e) : ∃ op, s.cfg.slotAt op = some e := by
  simp only [State.popSlot] at h
  split at h
  · exact ⟨_, h⟩
  · cases h

/-- R196: the captures fit `TERM` once the payload captured has the shape of the slot captured. -/
theorem State.capturesOk_term {t : State} {n : Nat} {e : Slot} {p : Payload} (hc : t.cfg.Admissible)
    (hph : t.phase = .term) (ha : t.AddrHeld) (hat : t.EntryAt n) (he : t.popSlot = some e)
    (hcp : t.capturedPayload e.shape = some p) (hs : p.shape = e.shape) (hw : p.wf = true)
    (hp : t.p = n + p.entryLength) : t.CapturesOk := by
  obtain ⟨op, hop⟩ := State.popSlot_some he
  simp only [State.CapturesOk, hph]
  refine ⟨ha, .inr ⟨n, ⟨e.name, p⟩, hat, ?_, parameterValue_wf_of_slotAt hc hop hs hw, hp⟩⟩
  simp [State.capturedParameter, he, hcp]

/-- R26: at `TERM`, the message the captures make is a value of type Message. -/
theorem State.capturedMessage_wf {s : State} {m : Message} (h : s.CapturesOk) (hph : s.phase = .term)
    (hm : s.capturedMessage = some m) : m.wf s.cfg = true := by
  simp only [State.CapturesOk, hph] at h
  obtain ⟨⟨a, ha, haw⟩, ⟨hk | hk, -⟩ | ⟨n, pv, ⟨hk, -⟩ | ⟨hk, -⟩, hpv, hw, -⟩⟩ := h
  · obtain rfl : Message.restoreParameter a = m := by
      simpa [State.capturedMessage, ha, hk, kSet, kRestore] using hm
    exact haw
  · obtain rfl : Message.requestVersion a = m := by
      simpa [State.capturedMessage, ha, hk, kSet, kRestore, kReqVer] using hm
    exact haw
  · obtain rfl : Message.setParameter a pv = m := by simpa [State.capturedMessage, ha, hk, hpv] using hm
    simp [Message.wf, haw, hw]
  · obtain rfl : Message.parameterUpdate a pv = m := by
      simpa [State.capturedMessage, ha, hk, hpv, kSet, kRestore, kReqVer, kUpdate] using hm
    simp [Message.wf, haw, hw]

/-! ## The rows (R196) -/

section
variable {s t : State}

theorem rowHeader_keeps_inv {c : Byte} {nxt : Phase} (h : s.Inv) (hb : s.dstatus = .busy) (hph : nxt ≠ .done)
    (hca : ((s.advance 1).goto nxt).CapturesOk) (hr : rowHeader c nxt s = .next t) : t.Inv := by
  simp only [rowHeader] at hr
  split at hr
  · cases hr
    exact h.raise hb _
  · rename_i v hv
    split at hr
    · cases hr
      exact h.consume hb (State.cursor_some hv) hph hca
    · cases hr
      exact h.raise hb _

theorem rowAddr_keeps_inv (h : s.Inv) (hb : s.dstatus = .busy) (hph : s.phase = .addr) (hr : rowAddr s = .next t) :
    t.Inv := by
  have hcap := h.captures hb
  simp only [State.CapturesOk, hph] at hcap
  obtain ⟨⟨-, -, -, -, -, hv⟩, hp⟩ := hcap
  simp only [rowAddr] at hr
  split at hr
  · cases hr
    exact h.raise hb _
  · rename_i v hcur
    split at hr
    · rename_i a ha
      cases hr
      exact h.consume hb (State.cursor_some hcur) (by decide)
        ⟨⟨a, rfl, addressDecodeByte_wf ha⟩, hv, by simp [hp]⟩
    · cases hr
      exact h.raise hb _

/-- R185: the phases after the five kind bytes. -/
theorem afterKind_some {k : Byte} {ph : Phase} (h : afterKind k = some ph) :
    (k = kSet ∧ ph = .pop) ∨ ((k = kRestore ∨ k = kReqVer) ∧ ph = .term) ∨
      ((k = kRepVer ∨ k = kUpdate) ∧ ph = .ver) := by
  simp only [afterKind] at h
  repeat' split at h
  all_goals simp_all

theorem rowKind_keeps_inv (h : s.Inv) (hb : s.dstatus = .busy) (hph : s.phase = .kind) (hr : rowKind s = .next t) :
    t.Inv := by
  have hcap := h.captures hb
  simp only [State.CapturesOk, hph] at hcap
  obtain ⟨ha, hv, hp⟩ := hcap
  simp only [rowKind] at hr
  split at hr
  · cases hr
    exact h.raise hb _
  · rename_i k hcur
    split at hr
    · rename_i ph hnext
      cases hr
      have hlt := State.cursor_some hcur
      rcases afterKind_some hnext with ⟨rfl, rfl⟩ | ⟨hk, rfl⟩ | ⟨hk, rfl⟩
      · exact h.consume hb hlt (by decide) ⟨ha, .inl ⟨rfl, by simp [hp]⟩⟩
      · exact h.consume hb hlt (by decide) ⟨ha, .inl ⟨hk.imp (congrArg some) (congrArg some), by simp [hp]⟩⟩
      · exact h.consume hb hlt (by decide) ⟨ha, hv, hk.imp (congrArg some) (congrArg some), by simp [hp]⟩
    · cases hr
      exact h.raise hb _

theorem rowVer_keeps_inv (h : s.Inv) (hb : s.dstatus = .busy) (hph : s.phase = .ver) (hr : rowVer s = .next t) :
    t.Inv := by
  have hcap := h.captures hb
  simp only [State.CapturesOk, hph] at hcap
  obtain ⟨ha, hv, hk, hp⟩ := hcap
  simp only [rowVer] at hr
  split at hr
  · cases hr
    exact h.raise hb _
  · rename_i v hcur
    split at hr
    · have hlt := State.cursor_some hcur
      rcases hk with hk | hk
      · obtain rfl : (s.advance 1).goto .str = t := by simpa [afterVersion, hk] using hr
        exact h.consume hb hlt (by decide) ⟨ha, hk, by simp [hv], by simp [hp, hv]⟩
      · obtain rfl : (s.advance 1).goto .pop = t := by simpa [afterVersion, hk, kRepVer, kUpdate] using hr
        exact h.consume hb hlt (by decide) ⟨ha, .inr ⟨hk, by simp [hp]⟩⟩
    · cases hr
      exact h.raise hb _

theorem rowPop_keeps_inv (h : s.Inv) (hb : s.dstatus = .busy) (hph : s.phase = .pop) (hr : rowPop s = .next t) :
    t.Inv := by
  have hcap := h.captures hb
  simp only [State.CapturesOk, hph] at hcap
  obtain ⟨ha, hat⟩ := hcap
  simp only [rowPop] at hr
  split at hr
  · cases hr
    exact h.raise hb _
  · rename_i op hcur
    split at hr
    · cases hr
      exact h.raise hb _
    · rename_i e he
      cases hr
      have hlt := State.cursor_some hcur
      cases hsh : e.shape with
      | unit => exact h.consume hb hlt (by decide) ⟨ha, s.p, hat, rfl, e, he, hsh⟩
      | one d =>
        exact h.consume (ph := .fld1) hb hlt (by decide) ⟨ha, s.p, hat, rfl, e, he, by simp [hsh]⟩
      | pair d1 d2 =>
        exact h.consume (ph := .fld1) hb hlt (by decide) ⟨ha, s.p, hat, rfl, e, he, by simp [hsh]⟩

theorem rowPlh_keeps_inv (h : s.Inv) (hb : s.dstatus = .busy) (hph : s.phase = .plh) (hr : rowPlh s = .next t) :
    t.Inv := by
  have hcap := h.captures hb
  simp only [State.CapturesOk, hph] at hcap
  obtain ⟨ha, n, hat, hp, e, he, hsh⟩ := hcap
  simp only [rowPlh] at hr
  split at hr
  · cases hr
    exact h.raise hb _
  · rename_i v hcur
    obtain rfl : (s.advance 1).goto .term = t := by simpa [placeholderDecodeByte] using hr
    refine h.consume hb (State.cursor_some hcur) (by decide) ?_
    exact State.capturesOk_term (n := n) (e := e) (p := .unit) h.config rfl ha hat he (by rw [hsh]; rfl) hsh.symm rfl
      (by simp [hp, Payload.entryLength])

theorem rowFld1_keeps_inv (h : s.Inv) (hb : s.dstatus = .busy) (hph : s.phase = .fld1) (hr : rowFld1 s = .next t) :
    t.Inv := by
  have hcap := h.captures hb
  simp only [State.CapturesOk, hph] at hcap
  obtain ⟨ha, n, hat, hp, e, he, hsh⟩ := hcap
  simp only [rowFld1, he] at hr
  split at hr
  · cases hr
    exact h.raise hb _
  · rename_i v hcur
    have hlt := State.cursor_some hcur
    cases hes : e.shape with
    | unit => exact absurd hes hsh
    | one d =>
      simp only [hes, firstField] at hr
      split at hr
      · cases hr
        exact h.raise hb _
      · rename_i f hf
        cases hr
        refine h.consume hb hlt (by decide) ?_
        exact State.capturesOk_term (n := n) (e := e) (p := .one f) h.config rfl ha hat he (by rw [hes]; rfl)
          (by simp [hes, Payload.shape, Domain.decodeByte_domain hf]) (Domain.decodeByte_wf hf)
          (by simp [hp, Payload.entryLength])
    | pair d1 d2 =>
      simp only [hes, firstField] at hr
      split at hr
      · cases hr
        exact h.raise hb _
      · rename_i f hf
        cases hr
        exact h.consume hb hlt (by decide)
          ⟨ha, n, hat, by simp [hp], e, d2, f, he, by simp [hes, Domain.decodeByte_domain hf], rfl,
            Domain.decodeByte_wf hf⟩

theorem rowFld2_keeps_inv (h : s.Inv) (hb : s.dstatus = .busy) (hph : s.phase = .fld2) (hr : rowFld2 s = .next t) :
    t.Inv := by
  have hcap := h.captures hb
  simp only [State.CapturesOk, hph] at hcap
  obtain ⟨ha, n, hat, hp, e, d2, f1, he, hsh, hf1, hw1⟩ := hcap
  simp only [rowFld2, he, hsh, secondField] at hr
  split at hr
  · cases hr
    exact h.raise hb _
  · rename_i v hcur
    split at hr
    · cases hr
      exact h.raise hb _
    · rename_i f2 hf2
      cases hr
      refine h.consume hb (State.cursor_some hcur) (by decide) ?_
      exact State.capturesOk_term (n := n) (e := e) (p := .pair f1 f2) h.config rfl ha hat he
        (by simp [State.capturedPayload, hsh, hf1]) (by simp [hsh, Payload.shape, Domain.decodeByte_domain hf2])
        (by simp [Payload.wf, hw1, Domain.decodeByte_wf hf2]) (by simp [hp, Payload.entryLength])

theorem rowStr_keeps_inv (h : s.Inv) (hb : s.dstatus = .busy) (hph : s.phase = .str) (hr : rowStr s = .next t) :
    t.Inv := by
  have hcap := h.captures hb
  simp only [State.CapturesOk, hph] at hcap
  obtain ⟨⟨a, ha, haw⟩, hk, hv, hp⟩ := hcap
  obtain ⟨-, -, -, -, hfit⟩ := h.buffers
  simp only [rowStr, ha] at hr
  split at hr
  · cases hr
    exact h.raise hb _
  · rename_i v hcur
    have hlt := State.cursor_some hcur
    split at hr
    · split at hr
      · cases hr
        exact h.raise hb _
      · cases hr
        have hroom : s.vstr.length + 9 ≤ s.cfg.maxFrameLen := by omega
        exact h.accept hb (by simpa [Message.wf, versionStringWf, haw, hroom] using hv) hlt
    · split at hr
      · cases hr
        exact h.raise hb _
      · rename_i h80
        cases hr
        refine h.consume (ph := s.phase) hb hlt (by simp [hph]) ?_
        simp only [State.CapturesOk, hph]
        refine ⟨⟨a, ha, haw⟩, hk, fun b hbm => ?_, by simp [hp]; omega⟩
        rcases List.mem_append.1 hbm with hbm | hbm
        · exact hv b hbm
        · obtain rfl := List.mem_singleton.1 hbm
          omega

theorem rowTerm_keeps_inv (h : s.Inv) (hb : s.dstatus = .busy) (hph : s.phase = .term) (hr : rowTerm s = .next t) :
    t.Inv := by
  simp only [rowTerm] at hr
  split at hr
  · cases hr
    exact h.raise hb _
  · rename_i v hcur
    split at hr
    · cases hr
      exact h.raise hb _
    · split at hr
      · split at hr
        · rename_i m hm
          cases hr
          exact h.accept hb (State.capturedMessage_wf (h.captures hb) hph hm) (State.cursor_some hcur)
        · cases hr
      · cases hr
        exact h.raise hb _

/-- R196: every row of an operation in flight keeps the invariant. -/
theorem row_keeps_inv (h : s.Inv) (hb : s.dstatus = .busy) (hr : row s = .next t) : t.Inv := by
  have hcap := h.captures hb
  cases hph : s.phase <;> simp only [row, hph] at hr <;> simp only [State.CapturesOk, hph] at hcap
  case h0 =>
    exact rowHeader_keeps_inv (nxt := .h1) h hb (by decide) ⟨hcap.1, congrArg (· + 1) hcap.2⟩ hr
  case h1 =>
    exact rowHeader_keeps_inv (nxt := .h2) h hb (by decide) ⟨hcap.1, congrArg (· + 1) hcap.2⟩ hr
  case h2 =>
    exact rowHeader_keeps_inv (nxt := .h3) h hb (by decide) ⟨hcap.1, congrArg (· + 1) hcap.2⟩ hr
  case h3 =>
    exact rowHeader_keeps_inv (nxt := .h4) h hb (by decide) ⟨hcap.1, congrArg (· + 1) hcap.2⟩ hr
  case h4 =>
    exact rowHeader_keeps_inv (nxt := .addr) h hb (by decide) ⟨hcap.1, congrArg (· + 1) hcap.2⟩ hr
  case addr => exact rowAddr_keeps_inv h hb hph hr
  case kind => exact rowKind_keeps_inv h hb hph hr
  case ver => exact rowVer_keeps_inv h hb hph hr
  case pop => exact rowPop_keeps_inv h hb hph hr
  case fld1 => exact rowFld1_keeps_inv h hb hph hr
  case fld2 => exact rowFld2_keeps_inv h hb hph hr
  case plh => exact rowPlh_keeps_inv h hb hph hr
  case str => exact rowStr_keeps_inv h hb hph hr
  case term => exact rowTerm_keeps_inv h hb hph hr
  case done =>
    cases hr
    exact h

end

end Sys2Proof.Machine
end

section
/-! SUPPORT. The invariant: reset meets it, and every request, instruction and unit's move keeps it. -/

namespace Sys2Proof.Machine

/-! ## The decoder's moves -/

section
variable {s t : State}

theorem frameArm_inv {m : Message} (h : s.Inv) (hb : s.dstatus = .busy)
    (hd : decodeMessage s.cfg s.remaining = .ok m) (hm : m.wf s.cfg = true) : (frameArm m s).Inv := by
  obtain ⟨hst, hph, hdm, hde, hp⟩ := frameArm_result m s
  obtain ⟨-, -, -, -, hfit⟩ := h.buffers
  have hin := h.cursor.2 hb
  have hlen := decodeMessage_length h.config hd
  rw [State.remaining_length] at hlen
  exact h.present hb (frameArm_keepsOutsideDecoder m s) hm hst hph hdm hde (by omega)

/-- After an entry has been taken, its captures are those of its slot and its payload. -/
theorem takeEntry_captures {pv : ParameterValue} {e : Slot} (hop : s.cfg.opcodeOf pv.name = some e.opcode)
    (he : s.cfg.slotAt e.opcode = some e) (hs : e.shape = pv.payload.shape) :
    ((s.takeEntry pv).goto .term).popSlot = some e ∧
      ((s.takeEntry pv).goto .term).capturedPayload e.shape = some pv.payload := by
  refine ⟨by simp [State.popSlot, hop, he], ?_⟩
  rw [hs, State.takeEntry_eq]
  cases pv.payload <;> rfl

theorem takeEntry_inv {pv : ParameterValue} {rest : List Byte} (h : s.Inv) (hb : s.dstatus = .busy)
    (hph : s.phase = .pop) (hr : readParameter s.cfg s.remaining = .ok (pv, rest)) :
    ((s.takeEntry pv).goto .term).Inv := by
  obtain ⟨hw, pre, hpre, hl⟩ := readParameter_wf h.config hr
  obtain ⟨e, hn, hs, hop, hpw⟩ := ParameterValue.wf_slot hw
  obtain ⟨hpop, hpay⟩ := takeEntry_captures hop (Config.slotAt_of_mem h.config (Config.slotNamed_some hn).1) hs
  have hcap := h.captures hb
  simp only [State.CapturesOk, hph] at hcap
  obtain ⟨⟨a, ha, haw⟩, hat⟩ := hcap
  have hp : s.p + pv.payload.entryLength ≤ s.inLen := by
    have hlen := congrArg List.length hpre
    rw [State.remaining_length, List.length_append] at hlen
    have hin := h.cursor.2 hb
    omega
  refine h.stay_busy hb (by simp [State.KeepsOutsideDecoder]) (by simp) (by simp) (by simp) (by simpa using hp)
    (by simp) ?_
  refine State.capturesOk_term (n := s.p) (by simpa using h.config) (by simp) ⟨a, by simpa using ha, haw⟩ ?_ hpop hpay
    hs.symm hpw (by simp)
  simpa [State.EntryAt] using hat

end

/-! ## The encoder's moves -/

theorem Message.frameLength_pos (m : Message) : 0 < m.frameLength := by
  cases m <;> simp only [Message.frameLength] <;> omega

/-- R41: storing the next bytes of a frame extends the part of it that stands in `OUT`. -/
theorem State.OutHolds.writeAll {s t : State} {m : Message} {n : Nat} {bs : List Byte} (h : s.OutHolds m n)
    (hw : Memory.wf s.outBuf) (hbs : bs <+: (encodeMessage s.cfg m).drop n) (hc : t.cfg = s.cfg)
    (ho : t.outBuf = s.outBuf.writeAll n bs) : t.OutHolds m (n + bs.length) := by
  intro i hi
  rw [ho, hc, Memory.read_writeAll _ _ _ _ hw]
  split
  · have hk := List.prefix_iff_getElem?.1 hbs (i - n) (by omega)
    rw [List.getElem?_drop, Nat.add_sub_of_le (by omega)] at hk
    rw [hk, List.getElem?_eq_getElem]
  · exact h i (by omega)

namespace State.Inv

variable {s t : State}

/-- R194: storing the next bytes of `EMSG`'s frame, and DONE once it is whole, keeps the invariant. -/
theorem emitted {bs : List Byte} (h : s.Inv) (hb : s.estatus = .busy)
    (hbs : bs <+: (encodeMessage s.cfg s.messageIn).drop s.eidx) (hfit : s.eidx + bs.length ≤ s.cfg.maxFrameLen) :
    (doneAfter (encodeMessage s.cfg s.messageIn).length
      { s with outBuf := s.outBuf.writeAll s.eidx bs, eidx := s.eidx + bs.length }).Inv := by
  obtain ⟨hin, hout, hinw, houtw, hlen⟩ := h.buffers
  obtain ⟨hdone, hbusy, -⟩ := h.encoder
  obtain ⟨hidx, hold⟩ := hbusy hb
  have hframe := encodeMessage_length h.emsg
  have hle := hbs.length_le
  rw [List.length_drop] at hle
  have hbuf : Memory.wf (s.outBuf.writeAll s.eidx bs) ∧
      Memory.within (s.outBuf.writeAll s.eidx bs) s.cfg.maxFrameLen :=
    ⟨Memory.writeAll_wf _ _ _ hout, Memory.writeAll_within _ _ _ _ houtw hfit⟩
  have hnew : ({ s with outBuf := s.outBuf.writeAll s.eidx bs, eidx := s.eidx + bs.length } : State).OutHolds
      s.messageIn (s.eidx + bs.length) := hold.writeAll hout hbs rfl rfl
  simp only [doneAfter]
  split
  · have hall : s.eidx + bs.length = s.messageIn.frameLength := by omega
    exact ⟨h.config, ⟨hin, hbuf.1, hinw, hbuf.2, hlen⟩, h.results, h.phases, h.cursor, h.captures, h.emsg,
      by simp, by simp, fun _ => ⟨s.messageIn, h.emsg, congrArg some hall, hall ▸ hnew⟩⟩
  · refine ⟨h.config, ⟨hin, hbuf.1, hinw, hbuf.2, hlen⟩, h.results, h.phases, h.cursor, h.captures, h.emsg,
      hdone, fun _ => ⟨?_, hnew⟩, by simp [hb]⟩
    show s.eidx + bs.length < s.messageIn.frameLength
    omega

theorem emitNext (h : s.Inv) (hb : s.estatus = .busy) (he : Machine.emitNext s = .next t) : t.Inv := by
  obtain ⟨v, hv, hfit, rfl⟩ := emitNext_next he
  obtain ⟨hlt, rfl⟩ := List.getElem?_eq_some_iff.1 hv
  refine h.emitted (bs := [_]) hb ?_ hfit
  rw [List.drop_eq_getElem_cons hlt]
  exact ⟨_, rfl⟩

/-- R194: the whole frame at once keeps the invariant. -/
theorem emitFrame (h : s.Inv) (hb : s.estatus = .busy) (hi : s.eidx = 0)
    (hfit : (encodeMessage s.cfg s.messageIn).length ≤ s.cfg.maxFrameLen) :
    ({ s with
      outBuf := s.outBuf.writeAll 0 (encodeMessage s.cfg s.messageIn)
      eidx := (encodeMessage s.cfg s.messageIn).length
      outLen := some (encodeMessage s.cfg s.messageIn).length
      estatus := .done } : State).Inv := by
  have he := h.emitted (bs := encodeMessage s.cfg s.messageIn) hb (by simp [hi]) (by omega)
  simpa [doneAfter, State.setDone, hi] using he

/-- R156: an entry at once, where it begins, keeps the invariant: the terminator is still to come. -/
theorem emitEntry {pv : ParameterValue} (h : s.Inv) (hb : s.estatus = .busy)
    (he : s.messageIn.entry? = some (s.eidx, pv))
    (hfit : s.eidx + (encodeParameter s.cfg pv).length ≤ s.cfg.maxFrameLen) :
    ({ s with
      outBuf := s.outBuf.writeAll s.eidx (encodeParameter s.cfg pv)
      eidx := s.eidx + (encodeParameter s.cfg pv).length } : State).Inv := by
  have hdrop := Message.entry?_encode (c := s.cfg) he
  have hlen := congrArg List.length hdrop
  rw [List.length_drop, List.length_append, List.length_singleton] at hlen
  have hi := h.emitted hb (hdrop ▸ List.prefix_append _ _) hfit
  rwa [doneAfter, if_neg (by show ¬ _ ≤ s.eidx + _; omega)] at hi

/-! ## Requests -/

/-- The waiting requests, the port and the turn are not part of the invariant. -/
theorem with_ports (h : s.Inv) (u : Agent) (rs : List Request) (v : Option PortValue) :
    ({ s with turn := u, inputs := rs, port := v } : State).Inv :=
  ⟨h.config, h.buffers, h.results, h.phases, h.cursor, h.captures, h.emsg, h.encoder⟩

theorem beginDecode (h : s.Inv) : s.beginDecode.Inv := by
  refine (h.with_ports .decoder s.inputs s.port).of_keepsOutsideDecoder
    ⟨rfl, rfl, rfl, rfl, rfl, rfl, rfl, rfl, rfl, rfl, rfl, rfl⟩ ?_ ?_ ?_
    fun _ => ⟨⟨rfl, rfl, rfl, rfl, rfl, rfl⟩, rfl⟩
  · simp [State.ResultsOk]
  · simp [State.PhaseOk]
  · simp [State.CursorOk]

theorem beginEncode (h : s.Inv) : s.beginEncode.Inv :=
  ⟨h.config, h.buffers, h.results, h.phases, h.cursor, h.captures, h.emsg, by simp,
    fun _ => ⟨Message.frameLength_pos _, fun i hi => absurd hi (Nat.not_lt_zero i)⟩, by simp⟩

/-- R263: writing `IN` and `IN_LEN` inside the space while the decoder is not BUSY keeps the invariant. -/
theorem writeInputs {a n : Nat} {bs : List Byte} (h : s.Inv) (hb : s.dstatus ≠ .busy)
    (ha : a + bs.length ≤ s.cfg.maxFrameLen) (hn : n = s.inLen ∨ n ≤ s.cfg.maxFrameLen) :
    ({ s with inBuf := s.inBuf.writeAll a bs, inLen := n } : State).Inv := by
  obtain ⟨hin, hout, hinw, houtw, hlen⟩ := h.buffers
  have hn' : n ≤ s.cfg.maxFrameLen := hn.elim (· ▸ hlen) id
  exact ⟨h.config,
    ⟨Memory.writeAll_wf _ _ _ hin, hout, Memory.writeAll_within _ _ _ _ hinw ha, houtw, hn'⟩,
    h.results, h.phases, ⟨h.cursor.1, fun hbusy => absurd hbusy hb⟩, h.captures, h.emsg, h.encoder⟩

/-- R263: writing a message of type Message to `EMSG` while the encoder is not BUSY keeps the invariant. -/
theorem writeMessage {m : Message} (h : s.Inv) (hb : s.estatus ≠ .busy) (hm : m.wf s.cfg = true) :
    ({ s with emsg := some m } : State).Inv :=
  ⟨h.config, h.buffers, h.results, h.phases, h.cursor, h.captures, hm,
    h.encoder.1, fun hbusy => absurd hbusy hb, h.encoder.2.2⟩

end State.Inv

/-- R33: the reset values meet the invariant for every admissible configuration, whatever requests wait. -/
theorem reset_inv {c : Config} (hc : c.Admissible) (rs : List Request) (n : Nat) :
    ({ State.reset with cfg := c, inputs := rs, epoch := n } : State).Inv where
  config := hc
  buffers := by simp [State.BuffersOk, State.reset, Memory.wf, Memory.within]
  results := by simp [State.ResultsOk, State.reset]
  phases := by simp [State.PhaseOk, State.reset]
  cursor := by simp [State.CursorOk, State.reset]
  captures := by simp [State.reset]
  emsg := unwrittenMessage_wf c n
  encoder := by simp [State.EncoderOk, State.reset]

/-- Settles O39: the open parameters are admissible (R151) and an unwritten `EMSG` holds a message of type Message. -/
theorem resetMeetsInvariant : Obligations.ResetMeetsInvariant :=
  reset_inv Config.board_admissible [] 0

/-! ## Every step -/

section
variable {s t : State}

theorem tick_keeps_inv {u : Agent} (h : s.Inv) (ht : tick u s = .next t) : t.Inv := by
  cases u with
  | decoder =>
    simp only [tick, tickDecoder] at ht
    split at ht
    · exact row_keeps_inv h (by assumption) ht
    · cases ht
      exact h
  | encoder =>
    simp only [tick, tickEncoder] at ht
    split at ht
    · exact h.emitNext (by assumption) ht
    · cases ht
      exact h

theorem serve_keeps_inv {r : Request} (h : s.Inv) (ht : serve r s = .next t) : t.Inv := by
  rcases serve_next ht with ⟨v, rfl⟩ | rfl | ⟨u, hu⟩ | ⟨hb, rfl | ⟨a, bs, n, ha, hn, rfl⟩⟩ |
    ⟨hb, rfl | ⟨m, hm, rfl⟩⟩
  · exact h.with_ports s.turn s.inputs v
  · exact reset_inv h.config s.inputs (s.epoch + 1)
  · exact tick_keeps_inv h hu
  · exact h.beginDecode
  · exact h.writeInputs hb ha hn
  · exact h.beginEncode
  · exact h.writeMessage hb hm

theorem moveDecoder_keeps_inv (h : s.Inv) (hb : s.dstatus = .busy) (hturn : s.turn = .decoder)
    (ht : moveDecoder s = .next t) : t.Inv := by
  rcases moveDecoder_next ht with ⟨-, m, hd, hm⟩ | ⟨hph, pv, rest, hr, hp⟩ | ⟨n, hn⟩ | hr
  · obtain ⟨hw, ⟨-, -, -, rfl⟩ | ⟨he, -⟩⟩ := runFrame_next hm
    · exact frameArm_inv h hb hd hw
    · simp [hturn] at he
  · obtain ⟨-, ⟨-, -, -, rfl⟩ | ⟨he, -⟩⟩ := runEntry_next hp
    · exact takeEntry_inv h hb hph hr
    · simp [hturn] at he
  · exact runRows_keeps (P := State.Inv) (fun u w hu hbu hw => row_keeps_inv hu hbu hw) n h hn
  · exact row_keeps_inv h hb hr

theorem moveEncoder_keeps_inv (h : s.Inv) (hb : s.estatus = .busy) (hturn : s.turn = .encoder)
    (ht : moveEncoder s = .next t) : t.Inv := by
  rcases moveEncoder_next ht with ⟨hi, hm⟩ | ⟨pv, he, hp⟩ | he
  · obtain ⟨-, ⟨hd, -⟩ | ⟨-, -, -, hfit, rfl⟩⟩ := runFrame_next hm
    · simp [hturn] at hd
    · exact h.emitFrame hb hi hfit
  · obtain ⟨-, ⟨hd, -⟩ | ⟨-, -, hfit, rfl⟩⟩ := runEntry_next hp
    · simp [hturn] at hd
    · exact h.emitEntry hb he hfit
  · exact h.emitNext hb he

end

/-- Settles O40: a step serves a request, waits, or lets a BUSY unit move, and each keeps the invariant. -/
theorem stepKeepsInvariant : Obligations.StepKeepsInvariant := by
  intro s t h ht
  rcases step_cases s with ⟨r, rest, -, hs⟩ | ⟨-, hs⟩
  · exact serve_keeps_inv (h.with_ports s.turn rest s.port) (hs ▸ ht)
  · rcases moveBlock_next (hs ▸ ht) with ⟨-, rfl⟩ | ⟨-, hb, hm⟩ | ⟨-, hb, hm⟩
    · exact h
    · exact moveDecoder_keeps_inv (h.with_ports .decoder s.inputs s.port) hb rfl hm
    · exact moveEncoder_keeps_inv (h.with_ports .encoder s.inputs s.port) hb rfl hm

end Sys2Proof.Machine
end

section
/-! SUPPORT. The rows of R196 on a frame that decodes: where the readers of the decode function (R181 to R193) answer a
value, the rows consume the same bytes one by one and leave the registers the instruction's arm leaves. -/

namespace Sys2Proof.Machine

/-! ## The bytes that remain -/

/-- Dropping bytes of a run leaves the run that begins after them. -/
theorem State.bytesFrom_drop (s : State) (a n k : Nat) : (s.bytesFrom a n).drop k = s.bytesFrom (a + k) (n - k) := by
  induction k generalizing a n with
  | zero => rfl
  | succ k ih =>
    cases n with
    | zero => simp [State.bytesFrom]
    | succ n => rw [State.bytesFrom, List.drop_succ_cons, ih, Nat.add_right_comm, Nat.add_assoc, Nat.add_sub_add_right]

/-- R27: after bytes of the same frame have been consumed, the bytes behind them remain. -/
theorem State.remaining_consumed {s t : State} {bs rest : List Byte} (h : s.remaining = bs ++ rest)
    (hp : t.p = s.p + bs.length) (hb : t.inBuf = s.inBuf) (hl : t.inLen = s.inLen) (he : t.epoch = s.epoch) :
    t.remaining = rest := by
  calc t.remaining = s.remaining.drop bs.length := by
        rw [State.remaining, State.remaining, State.bytesFrom_drop, hp, hl, Nat.sub_sub]
        exact State.bytesFrom_congr hb he _ _
    _ = rest := by rw [h, List.drop_left]

/-- R181: the cursor reads the first byte that remains, and the frame goes on exactly where another byte follows it. -/
theorem State.cursor_of_remaining {s : State} {v : Byte} {rest : List Byte} (h : s.remaining = v :: rest) :
    s.cursor = some v ∧ (s.p + 1 < s.inLen ↔ rest ≠ []) := by
  have hlen := congrArg List.length h
  rw [State.remaining_length, List.length_cons] at hlen
  obtain ⟨hcur, hrem⟩ := State.cursor_inside (s := s) (by omega)
  rw [hrem, List.cons.injEq] at h
  refine ⟨hcur.trans (congrArg some h.1), ?_⟩
  rw [← List.length_pos_iff]
  omega

/-! ## Runs of rows -/

/-- R196: `n` rows lead from `s` to `t`, so that a run with these and `k` more rows to go is a run of `k` rows from
`t`. -/
def RowsLead (n : Nat) (s t : State) : Prop := ∀ k, runRows (n + k) s = runRows k t

theorem RowsLead.one {s t : State} (hb : s.dstatus = .busy) (h : row s = .next t) : RowsLead 1 s t := by
  intro k
  rw [Nat.add_comm, runRows, if_pos hb, h]
  rfl

theorem RowsLead.trans {m n : Nat} {s t u : State} (h : RowsLead m s t) (h' : RowsLead n t u) :
    RowsLead (m + n) s u := by
  intro k
  rw [Nat.add_assoc, h, h']

theorem RowsLead.of_eq {m n : Nat} {s t : State} (h : RowsLead m s t) (hn : m = n) : RowsLead n s t := hn ▸ h

/-- A run of rows stands still once its operation has ended. -/
theorem runRows_ended {s : State} (h : s.dstatus ≠ .busy) (n : Nat) : runRows n s = .next s := by
  cases n with
  | zero => rfl
  | succ n => rw [runRows, if_neg h]

section
variable {s : State} {v : Byte} {rest : List Byte}

/-! ## Header, address and kind -/

theorem rowHeader_ok {nxt : Phase} (hr : s.remaining = v :: rest) :
    rowHeader v nxt s = .next ((s.advance 1).goto nxt) := by
  simp [rowHeader, (State.cursor_of_remaining hr).1]

/-- R182: the five header rows. -/
theorem rowsLead_header (hb : s.dstatus = .busy) (hph : s.phase = .h0) (hr : s.remaining = header ++ rest) :
    RowsLead 5 s ((s.advance 5).goto .addr) := by
  have r1 : ((s.advance 1).goto .h1).remaining = [mfr0, mfr1, mfr2, devKind] ++ rest :=
    State.remaining_consumed (bs := [sox]) hr rfl rfl rfl rfl
  have r2 : ((s.advance 2).goto .h2).remaining = [mfr1, mfr2, devKind] ++ rest :=
    State.remaining_consumed (bs := [mfr0]) r1 rfl rfl rfl rfl
  have r3 : ((s.advance 3).goto .h3).remaining = [mfr2, devKind] ++ rest :=
    State.remaining_consumed (bs := [mfr1]) r2 rfl rfl rfl rfl
  have r4 : ((s.advance 4).goto .h4).remaining = [devKind] ++ rest :=
    State.remaining_consumed (bs := [mfr2]) r3 rfl rfl rfl rfl
  have l0 : RowsLead 1 s ((s.advance 1).goto .h1) := .one hb (by rw [row, hph]; exact rowHeader_ok hr)
  have l1 : RowsLead 1 ((s.advance 1).goto .h1) ((s.advance 2).goto .h2) := .one hb (rowHeader_ok r1)
  have l2 : RowsLead 1 ((s.advance 2).goto .h2) ((s.advance 3).goto .h3) := .one hb (rowHeader_ok r2)
  have l3 : RowsLead 1 ((s.advance 3).goto .h3) ((s.advance 4).goto .h4) := .one hb (rowHeader_ok r3)
  have l4 : RowsLead 1 ((s.advance 4).goto .h4) ((s.advance 5).goto .addr) := .one hb (rowHeader_ok r4)
  exact (((l0.trans l1).trans l2).trans l3).trans l4

theorem row_addr_ok {a : DeviceAddress} (hph : s.phase = .addr) (hr : s.remaining = v :: rest)
    (ha : addressDecodeByte v = some a) : row s = .next (((s.captureAddr a).advance 1).goto .kind) := by
  simp [row, hph, rowAddr, (State.cursor_of_remaining hr).1, ha]

theorem row_kind_ok {ph : Phase} (hph : s.phase = .kind) (hr : s.remaining = v :: rest)
    (hk : afterKind v = some ph) : row s = .next (((s.captureKind v).advance 1).goto ph) := by
  simp [row, hph, rowKind, (State.cursor_of_remaining hr).1, hk]

/-- R61, R196: the rows of a frame's first seven bytes. -/
theorem rowsLead_takePrefix {k : Byte} {a : DeviceAddress} {ph : Phase} (hb : s.dstatus = .busy) (hph : s.phase = .h0)
    (hr : s.remaining = header ++ v :: k :: rest) (ha : addressDecodeByte v = some a) (hk : afterKind k = some ph) :
    RowsLead 7 s ((s.takePrefix a k).goto ph) := by
  have hhead := rowsLead_header hb hph hr
  have r5 : ((s.advance 5).goto .addr).remaining = v :: k :: rest := State.remaining_consumed hr rfl rfl rfl rfl
  have haddr := RowsLead.one (s := (s.advance 5).goto .addr) hb (row_addr_ok rfl r5 ha)
  have r6 : (((((s.advance 5).goto .addr).captureAddr a).advance 1).goto .kind).remaining = k :: rest :=
    State.remaining_consumed (bs := [v]) r5 rfl rfl rfl rfl
  exact (hhead.trans haddr).trans (RowsLead.one hb (row_kind_ok rfl r6 hk))

theorem row_ver_ok {ph : Phase} (hph : s.phase = .ver) (hr : s.remaining = version :: rest)
    (hk : afterVersion s.kind = some ph) : row s = .next (s.takeVersion.goto ph) := by
  simp [row, hph, rowVer, (State.cursor_of_remaining hr).1, hk, State.takeVersion]

/-- R186, R196: the rows of a frame's first seven bytes and its version byte. -/
theorem rowsLead_takeVersion {k : Byte} {a : DeviceAddress} {ph : Phase} (hb : s.dstatus = .busy)
    (hph : s.phase = .h0) (hr : s.remaining = header ++ v :: k :: version :: rest) (ha : addressDecodeByte v = some a)
    (hk : afterKind k = some .ver) (hv : afterVersion (some k) = some ph) :
    RowsLead 8 s ((s.takePrefix a k).takeVersion.goto ph) := by
  have hrem : ((s.takePrefix a k).goto .ver).remaining = version :: rest :=
    State.remaining_consumed (bs := header ++ [v, k]) hr rfl rfl rfl rfl
  exact (rowsLead_takePrefix hb hph hr ha hk).trans
    (RowsLead.one (s := (s.takePrefix a k).goto .ver) hb (row_ver_ok rfl hrem hv))

/-! ## Catalogue entries -/

theorem row_pop_ok {op : Byte} {e : Slot} (hph : s.phase = .pop) (hr : s.remaining = op :: rest)
    (he : s.cfg.slotAt op = some e) :
    row s = .next (((s.capturePop op).advance 1).goto (afterOpcode e.shape)) := by
  simp [row, hph, rowPop, (State.cursor_of_remaining hr).1, he]

theorem row_plh_ok (hph : s.phase = .plh) (hr : s.remaining = v :: rest) :
    row s = .next ((s.advance 1).goto .term) := by
  simp [row, hph, rowPlh, (State.cursor_of_remaining hr).1, placeholderDecodeByte]

theorem row_fld1_ok {e : Slot} {d : Domain} {nxt : Phase} {f : FieldValue} (hph : s.phase = .fld1)
    (hr : s.remaining = v :: rest) (he : s.popSlot = some e) (hd : firstField e.shape = some (d, nxt))
    (hf : d.decodeByte v = some f) : row s = .next (((s.captureFv1 f).advance 1).goto nxt) := by
  simp [row, hph, rowFld1, (State.cursor_of_remaining hr).1, he, hd, hf]

theorem row_fld2_ok {e : Slot} {d : Domain} {f : FieldValue} (hph : s.phase = .fld2)
    (hr : s.remaining = v :: rest) (he : s.popSlot = some e) (hd : secondField e.shape = some d)
    (hf : d.decodeByte v = some f) : row s = .next (((s.captureFv2 f).advance 1).goto .term) := by
  simp [row, hph, rowFld2, (State.cursor_of_remaining hr).1, he, hd, hf]

/-- R153 to R155: the rows after a catalogue opcode read the payload of its slot's shape. -/
theorem rowsLead_payload {e : Slot} {p : Payload} (hb : s.dstatus = .busy) (hph : s.phase = afterOpcode e.shape)
    (he : s.popSlot = some e) (hp : readPayload e.shape s.remaining = .ok (p, rest)) :
    RowsLead p.encode.length s (((s.capturePayload p).advance p.encode.length).goto .term) := by
  cases hsh : e.shape with
  | unit =>
    simp only [hsh, readPayload, except_bind_ok, readPlaceholder_ok, Except.ok.injEq, Prod.mk.injEq] at hp
    obtain ⟨_, ⟨v, hr⟩, rfl, -⟩ := hp
    exact RowsLead.one hb (row_plh_ok (by rw [hph, hsh]; rfl) hr)
  | one d =>
    simp only [hsh, readPayload, except_bind_ok, Prod.exists, readField_ok, Except.ok.injEq, Prod.mk.injEq] at hp
    obtain ⟨f, _, ⟨v, hr, hf⟩, rfl, -⟩ := hp
    exact RowsLead.one hb (row_fld1_ok (by rw [hph, hsh]; rfl) hr he (by rw [hsh]; rfl) hf)
  | pair d1 d2 =>
    simp only [hsh, readPayload, except_bind_ok, Prod.exists, readField_ok, Except.ok.injEq, Prod.mk.injEq] at hp
    obtain ⟨f1, _, ⟨v1, hr, hf1⟩, f2, _, ⟨v2, rfl, hf2⟩, rfl, -⟩ := hp
    have hfld1 := RowsLead.one hb
      (row_fld1_ok (nxt := .fld2) (by rw [hph, hsh]; rfl) hr he (by rw [hsh]; rfl) hf1)
    have r2 : (((s.captureFv1 f1).advance 1).goto .fld2).remaining = v2 :: _ :=
      State.remaining_consumed (bs := [v1]) hr rfl rfl rfl rfl
    exact hfld1.trans (RowsLead.one hb (row_fld2_ok rfl r2 he (by rw [hsh]; rfl) hf2))

/-- R152, R196: where an entry is read, its rows take the entry. -/
theorem rowsLead_entry {pv : ParameterValue} (hc : s.cfg.Admissible) (hb : s.dstatus = .busy) (hph : s.phase = .pop)
    (hp : readParameter s.cfg s.remaining = .ok (pv, rest)) :
    RowsLead pv.payload.entryLength s ((s.takeEntry pv).goto .term) := by
  obtain ⟨op, e, r, hr, he, hpay, hname⟩ := readParameter_ok hp
  have hpop := RowsLead.one hb (row_pop_ok hph hr he)
  have hrem : (((s.capturePop op).advance 1).goto (afterOpcode e.shape)).remaining = r :=
    State.remaining_consumed (bs := [op]) hr rfl rfl rfl rfl
  have hrows := hpop.trans (rowsLead_payload hb rfl he (hrem ▸ hpay))
  have hop : s.cfg.opcodeOf pv.name = some op := hname ▸ (Config.opcodeOf_of_slotAt hc he).1
  rw [Nat.add_comm, Payload.encode_length] at hrows
  convert hrows using 1
  rw [State.takeEntry_eq, hop]
  cases pv.payload <;> rfl

/-! ## Version strings -/

/-- R191: a string byte is captured and the phase stays. -/
theorem row_str_ok (hph : s.phase = .str) (hr : s.remaining = v :: rest) (hv : v.toNat < 0x80) :
    row s = .next (s.takeString [v]) := by
  have hne : v ≠ eox := by
    rintro rfl
    exact absurd hv (by decide)
  simp [row, hph, rowStr, (State.cursor_of_remaining hr).1, hne, hv, State.takeString]

/-- R191: taking a string and then another takes both as one. -/
theorem State.takeString_append (s : State) (bs cs : List Byte) :
    s.takeString (bs ++ cs) = (s.takeString bs).takeString cs := by
  simp [State.takeString, State.captureString, State.advance, Nat.add_assoc]

/-- R191: the rows of a version string take the string, one row for each byte. -/
theorem rowsLead_string {bs : List Byte} (hb : s.dstatus = .busy) (hph : s.phase = .str)
    (hr : s.remaining = bs ++ rest) (hbs : ∀ b ∈ bs, b.toNat < 0x80) : RowsLead bs.length s (s.takeString bs) := by
  induction bs generalizing s with
  | nil =>
    intro k
    simp [State.takeString, State.captureString, State.advance]
  | cons v bs ih =>
    have hone := RowsLead.one hb (row_str_ok hph hr (hbs v (by simp)))
    have hrem : (s.takeString [v]).remaining = bs ++ rest :=
      State.remaining_consumed (bs := [v]) hr rfl rfl rfl rfl
    have hall := hone.trans (ih (s := s.takeString [v]) hb hph hrem fun b hb => hbs b (by simp [hb]))
    rw [Nat.add_comm] at hall
    rw [← State.takeString_append, List.singleton_append] at hall
    exact hall

/-! ## The terminator -/

theorem row_term_ok {m : Message} (hph : s.phase = .term) (hr : s.remaining = [eox])
    (hm : s.capturedMessage = some m) : row s = .next (s.accept m) := by
  obtain ⟨hcur, hmore⟩ := State.cursor_of_remaining hr
  simp [row, hph, rowTerm, hcur, hmore, hm]

theorem row_str_end {a : DeviceAddress} (hph : s.phase = .str) (hr : s.remaining = [eox]) (ha : s.addr = some a) :
    row s = .next (s.accept (.reportVersion a s.vstr)) := by
  obtain ⟨hcur, hmore⟩ := State.cursor_of_remaining hr
  simp [row, hph, rowStr, hcur, hmore, ha]

end

/-! ## Whole frames -/

/-- The phase that is left when a message is presented does not matter. -/
theorem State.accept_goto (s : State) (ph : Phase) (m : Message) : (s.goto ph).accept m = s.accept m := rfl

theorem State.takeEntry_goto (s : State) (ph : Phase) (pv : ParameterValue) :
    (s.goto ph).takeEntry pv = (s.takeEntry pv).goto ph := by
  rw [State.takeEntry_eq, State.takeEntry_eq]
  rfl

/-- R196: the captures that an entry leaves make its parameter value. -/
theorem takeEntry_capturedParameter {s : State} {pv : ParameterValue} (hc : s.cfg.Admissible)
    (hw : pv.wf s.cfg = true) : ((s.takeEntry pv).goto .term).capturedParameter = some pv := by
  obtain ⟨e, hn, hs, hop, -⟩ := ParameterValue.wf_slot hw
  obtain ⟨hmem, hname⟩ := Config.slotNamed_some hn
  obtain ⟨hpop, hpay⟩ := takeEntry_captures hop (Config.slotAt_of_mem hc hmem) hs
  simp only [State.capturedParameter, hpop, hpay, hname]

theorem State.capturedMessage_set {s : State} {a : DeviceAddress} {pv : ParameterValue} (ha : s.addr = some a)
    (hk : s.kind = some kSet) (hp : s.capturedParameter = some pv) : s.capturedMessage = some (.setParameter a pv) := by
  simp [State.capturedMessage, ha, hk, hp]

theorem State.capturedMessage_update {s : State} {a : DeviceAddress} {pv : ParameterValue} (ha : s.addr = some a)
    (hk : s.kind = some kUpdate) (hp : s.capturedParameter = some pv) :
    s.capturedMessage = some (.parameterUpdate a pv) := by
  simp [State.capturedMessage, ha, hk, hp, kSet, kRestore, kReqVer, kUpdate]

section
variable {s : State}

/-- R152, R187: the rows of an entry and the terminator behind it present the message its captures make. -/
theorem rowsLead_entry_end {pv : ParameterValue} {m : Message} (hc : s.cfg.Admissible) (hb : s.dstatus = .busy)
    (hph : s.phase = .pop) (hp : readParameter s.cfg s.remaining = .ok (pv, [eox]))
    (hm : ∀ t : State, t.addr = s.addr → t.kind = s.kind → t.capturedParameter = some pv →
      t.capturedMessage = some m) :
    RowsLead (pv.payload.entryLength + 1) s ((s.takeEntry pv).accept m) := by
  obtain ⟨hw, pre, hpre, hl⟩ := readParameter_wf hc hp
  have hrem : ((s.takeEntry pv).goto .term).remaining = [eox] :=
    State.remaining_consumed hpre (by simp [hl]) (by simp) (by simp) (by simp)
  exact (rowsLead_entry hc hb hph hp).trans
    (RowsLead.one (by simpa using hb)
      (row_term_ok rfl hrem (hm _ (by simp) (by simp) (takeEntry_capturedParameter hc hw))))

/-- R191: the rows of a version string and the terminator behind it present the string. -/
theorem rowsLead_string_end {bs : List Byte} {a : DeviceAddress} (hb : s.dstatus = .busy) (hph : s.phase = .str)
    (hv : s.vstr = []) (hr : s.remaining = bs ++ [eox]) (hbs : ∀ b ∈ bs, b.toNat < 0x80) (ha : s.addr = some a) :
    RowsLead (bs.length + 1) s ((s.takeString bs).accept (.reportVersion a bs)) := by
  have hrem : (s.takeString bs).remaining = [eox] := State.remaining_consumed hr rfl rfl rfl rfl
  have hrow := row_str_end (s := s.takeString bs) hph hrem ha
  rw [State.takeString_vstr, hv, List.nil_append] at hrow
  exact (rowsLead_string hb hph hr hbs).trans (RowsLead.one hb hrow)

/-- R45, R193, R196: on a started frame that decodes, the rows lead to what the arm of its message leaves. -/
theorem rowsLead_frame {m : Message} (hc : s.cfg.Admissible) (hb : s.dstatus = .busy) (hph : s.phase = .h0)
    (hv : s.vstr = []) (hd : decodeMessage s.cfg s.remaining = .ok m) :
    RowsLead m.frameLength s (frameArm m s) := by
  obtain ⟨v, k, r, a, hr, ha, hk⟩ := decodeMessage_ok hd
  have hrem : ∀ {ph}, ((s.takePrefix a k).goto ph).remaining = r :=
    State.remaining_consumed (bs := header ++ [v, k]) hr rfl rfl rfl rfl
  rcases decodeKind_ok hk with ⟨pv, rfl, hp, rfl⟩ | ⟨rfl, rfl, rfl⟩ | ⟨rfl, rfl, rfl⟩ | ⟨vs, rfl, rfl, hvs, rfl⟩ |
    ⟨pv, r', rfl, rfl, hp, rfl⟩
  · have hend := rowsLead_entry_end (s := (s.takePrefix a kSet).goto .pop) hc hb rfl (hrem.symm ▸ hp)
      fun t hta htk htp => State.capturedMessage_set hta htk htp
    rw [State.takeEntry_goto, State.accept_goto] at hend
    exact ((rowsLead_takePrefix hb hph hr ha rfl).trans hend).of_eq (by simp only [Message.frameLength]; omega)
  · exact (rowsLead_takePrefix hb hph hr ha rfl).trans
      (RowsLead.one (s := (s.takePrefix a kRestore).goto .term) hb (row_term_ok rfl hrem rfl))
  · exact (rowsLead_takePrefix hb hph hr ha rfl).trans
      (RowsLead.one (s := (s.takePrefix a kReqVer).goto .term) hb (row_term_ok rfl hrem rfl))
  · have hrem' : ((s.takePrefix a kRepVer).takeVersion.goto .str).remaining = vs ++ [eox] :=
      State.remaining_consumed (bs := header ++ [v, kRepVer, version]) hr rfl rfl rfl rfl
    have hend := rowsLead_string_end (s := (s.takePrefix a kRepVer).takeVersion.goto .str) hb rfl hv hrem' hvs rfl
    exact ((rowsLead_takeVersion hb hph hr ha rfl rfl).trans hend).of_eq
      (by simp only [Message.frameLength]; omega)
  · have hrem' : ((s.takePrefix a kUpdate).takeVersion.goto .pop).remaining = r' :=
      State.remaining_consumed (bs := header ++ [v, kUpdate, version]) hr rfl rfl rfl rfl
    have hend := rowsLead_entry_end (s := (s.takePrefix a kUpdate).takeVersion.goto .pop) hc hb rfl
      (hrem'.symm ▸ hp) fun t hta htk htp => State.capturedMessage_update hta htk htp
    rw [State.takeEntry_goto, State.accept_goto] at hend
    exact ((rowsLead_takeVersion hb hph hr ha rfl rfl).trans hend).of_eq
      (by simp only [Message.frameLength]; omega)

end

/-- With no request waiting, a decoder that is BUSY and has the turn moves. -/
theorem step_moveDecoder {s : State} (hi : s.inputs = []) (hturn : s.turn = .decoder) (hb : s.dstatus = .busy) :
    step s = moveDecoder s := by
  have hself : ({ s with turn := .decoder } : State) = s := by rw [← hturn]
  have hmover : s.mover = some .decoder := by simp [State.mover, hturn, State.unitBusy, hb]
  rw [step, hi]
  simp only [moveBlock, hmover, hself]

/-- Settles O48: where the frame decodes, the rows lead to the state the instruction's arm leaves, in as many rows as
the frame has bytes; where it does not, the block's own move is that run of rows. -/
theorem wholeFrameStepEqualsRows : Obligations.WholeFrameStepEqualsRows := by
  rintro s hc hlen hi hturn ⟨hb, hph, hp, ⟨-, -, -, -, -, hv⟩, -, -⟩
  have hfetch : s.fetchKind = some .frame := by rw [State.fetchKind, hph]
  rw [step_moveDecoder hi hturn hb, moveDecoder, hfetch]
  cases hd : decodeMessage s.cfg s.remaining with
  | error e => simp [decode, hd, Except.map, hp]
  | ok m =>
    have hfl : s.inLen = m.frameLength := by
      rw [← decodeMessage_length hc hd, State.remaining_length, hp, Nat.sub_zero]
    have hw : m.wf s.cfg = true := decodeMessage_wf hc (by simp [hp, hlen]) hd
    have hrows : runRows (s.inLen + 1) s = .next (frameArm m s) := by
      rw [hfl, rowsLead_frame hc hb hph hv hd 1, runRows_ended (by rw [(frameArm_result m s).1]; decide)]
    simp [decode, hd, Except.map, exec_toInstr, runFrame, hw, hturn, hb, hph, hrows]

end Sys2Proof.Machine
end

section
/-! SUPPORT. The two units beside each other (R48), and that a result appears whole (R45). A row of the decoder reads
and writes none of the encoder's registers, and an emit reads of the decoder's side only what no row writes. -/

namespace Sys2Proof.Machine

/-! ## The encoder's registers -/

/-- The encoder's registers set to given values: status, output index, `OUT` and `OUT_LEN` (R32). -/
def State.withEncoder (s : State) (es : EStatus) (i : Nat) (ob : Memory) (ol : Option Nat) : State :=
  { s with estatus := es, eidx := i, outBuf := ob, outLen := ol }

section
variable (s : State) (es : EStatus) (i : Nat) (ob : Memory) (ol : Option Nat)

/-- R48: a row does the same whatever the encoder's registers hold, and leaves them alone: what it decides by does not
depend on them, and at the end of each of its branches the two sides are the same update of the state. -/
theorem row_withEncoder :
    row (s.withEncoder es i ob ol) = andThen (row s) fun t => .next (t.withEncoder es i ob ol) := by
  have hcfg : (s.withEncoder es i ob ol).cfg = s.cfg := rfl
  have hphase : (s.withEncoder es i ob ol).phase = s.phase := rfl
  have hp : (s.withEncoder es i ob ol).p = s.p := rfl
  have hlen : (s.withEncoder es i ob ol).inLen = s.inLen := rfl
  have hcur : (s.withEncoder es i ob ol).cursor = s.cursor := rfl
  have haddr : (s.withEncoder es i ob ol).addr = s.addr := rfl
  have hkind : (s.withEncoder es i ob ol).kind = s.kind := rfl
  have hpop : (s.withEncoder es i ob ol).popSlot = s.popSlot := rfl
  have hmsg : (s.withEncoder es i ob ol).capturedMessage = s.capturedMessage := rfl
  simp only [row, hphase]
  cases s.phase
  all_goals
    simp only [rowHeader, rowAddr, rowKind, rowVer, rowPop, rowFld1, rowFld2, rowPlh, rowStr, rowTerm, hcfg, hp, hlen,
      hcur, haddr, hkind, hpop, hmsg]
    repeat' split
    all_goals rfl

end

section
variable {s t u : State}

/-- R48: a decoder step does the same whatever the encoder's registers hold. -/
theorem tickDecoder_withEncoder (h : tickDecoder s = .next t) (es : EStatus) (i : Nat) (ob : Memory) (ol : Option Nat) :
    tickDecoder (s.withEncoder es i ob ol) = .next (t.withEncoder es i ob ol) := by
  by_cases hb : s.dstatus = .busy
  · have hb' : (s.withEncoder es i ob ol).dstatus = .busy := hb
    rw [tickDecoder, if_pos hb] at h
    rw [tickDecoder, if_pos hb', row_withEncoder, h]
    rfl
  · have hb' : (s.withEncoder es i ob ol).dstatus ≠ .busy := hb
    rw [tickDecoder, if_neg hb] at h
    rw [tickDecoder, if_neg hb', Host.Outcome.next.inj h]

theorem State.keepsOutsideDecoder_self (s : State) : s.KeepsOutsideDecoder s :=
  ⟨rfl, rfl, rfl, rfl, rfl, rfl, rfl, rfl, rfl, rfl, rfl, rfl⟩

/-- A row writes the decoder's registers only. -/
theorem row_keepsOutsideDecoder (h : row s = .next t) : s.KeepsOutsideDecoder t := by
  rcases row_next h with ⟨e, rfl⟩ | ⟨-, m, rfl⟩ | ⟨-, a, k, op, f1, f2, v, ph, rfl⟩ | ⟨-, rfl⟩
  all_goals exact State.keepsOutsideDecoder_self _

/-- A decoder step writes the decoder's registers only. -/
theorem tickDecoder_keepsOutsideDecoder (h : tickDecoder s = .next t) : s.KeepsOutsideDecoder t := by
  simp only [tickDecoder] at h
  split at h
  · exact row_keepsOutsideDecoder h
  · cases h
    exact State.keepsOutsideDecoder_self _

/-- R48: where only the decoder's registers differ, an encoder step leaves the same values in the encoder's registers
and nothing else changed. -/
theorem tickEncoder_local (h : tickEncoder s = .next u) (hk : s.KeepsOutsideDecoder t) :
    tickEncoder t = .next (t.withEncoder u.estatus u.eidx u.outBuf u.outLen) := by
  obtain ⟨hcfg, -, -, hem, hes, hei, hob, hol, -, -, -, hep⟩ := hk
  have hmsg := State.messageIn_congr hcfg hem hep
  simp only [tickEncoder, hes] at h ⊢
  split at h
  · rw [if_pos (by assumption)]
    obtain ⟨v, hv, hlt, rfl⟩ := emitNext_next h
    have hroom : s.eidx + 1 ≤ s.cfg.maxFrameLen := hlt
    simp only [emitNext, hcfg, hmsg, hei, hv, emitBytes, List.length_singleton, hroom, if_true, andThen_next_eq, hob,
      Memory.writeAll, doneAfter]
    split <;> simp [State.withEncoder, State.setDone, hcfg, hes, hol]
  · cases h
    rw [if_neg (by assumption)]
    simp [State.withEncoder, ← hes, ← hei, ← hob, ← hol]

end

/-- Settles O59: either order leaves the decoder's step of the decoder's registers beside the encoder's step of the
encoder's. -/
theorem unitStepsCommute : Obligations.UnitStepsCommute := by
  intro s t u hd he
  have hu : u = s.withEncoder u.estatus u.eidx u.outBuf u.outLen := by
    have hself := tickEncoder_local he s.keepsOutsideDecoder_self
    rw [he] at hself
    exact Host.Outcome.next.inj hself
  refine ⟨_, tickEncoder_local he (tickDecoder_keepsOutsideDecoder hd), ?_⟩
  rw [hu]
  exact tickDecoder_withEncoder hd _ _ _ _

/-! ## Results -/

section
variable {s t : State}

/-- R194: the emit that ends an operation is the one after which the index has reached the frame's length. -/
theorem emitNext_last (hb : s.estatus = .busy) (h : emitNext s = .next t) (hdone : t.estatus = .done) :
    ∃ hlt : s.eidx < (encodeMessage s.cfg s.messageIn).length,
      (encodeMessage s.cfg s.messageIn).length = s.eidx + 1 ∧ t.outLen = some (s.eidx + 1) ∧
        t.outBuf = s.outBuf.write s.eidx (encodeMessage s.cfg s.messageIn)[s.eidx] := by
  obtain ⟨v, hv, -, rfl⟩ := emitNext_next h
  obtain ⟨hlt, rfl⟩ := List.getElem?_eq_some_iff.1 hv
  refine ⟨hlt, ?_⟩
  simp only [doneAfter] at hdone ⊢
  split at hdone
  · rename_i hle
    rw [if_pos hle]
    exact ⟨Nat.le_antisymm hle hlt, rfl, rfl⟩
  · simp [hb] at hdone

/-- R41, R45: in a state that meets the invariant, the emit that ends an operation leaves the whole frame in `OUT`. -/
theorem State.Inv.emitNext_last_holds (hinv : s.Inv) (hb : s.estatus = .busy) (h : Machine.emitNext s = .next t)
    (hdone : t.estatus = .done) : Memory.Holds t.outBuf 0 (encodeMessage s.cfg s.messageIn) := by
  obtain ⟨hlt, hlast, -, hout⟩ := emitNext_last hb h hdone
  obtain ⟨-, hwf, -⟩ := hinv.buffers
  obtain ⟨-, hbusy, -⟩ := hinv.encoder
  have hnext : [(encodeMessage s.cfg s.messageIn)[s.eidx]] <+: (encodeMessage s.cfg s.messageIn).drop s.eidx :=
    ⟨_, (List.drop_eq_getElem_cons hlt).symm⟩
  have hall := (hbusy hb).2.writeAll (t := { s with outBuf := t.outBuf }) hwf hnext rfl hout
  intro k hk
  rw [Nat.zero_add]
  exact hall k (hlast ▸ hk)

end

/-- Settles O44: a row presents a message, records an error or leaves both absent; an emit completes the operation
exactly when it stores the last byte of the frame, the others standing in `OUT` by the invariant. -/
theorem resultsAppearInOneStep : Obligations.ResultsAppearInOneStep := by
  refine ⟨fun s t hb hm he h => ?_, fun s t hb hl h => ?_, fun s t m hinv hb hem h hdone => ?_⟩
  · rw [tickDecoder, if_pos hb] at h
    rcases row_next h with ⟨e, rfl⟩ | ⟨-, m, rfl⟩ | ⟨-, a, k, op, f1, f2, v, ph, rfl⟩ | ⟨-, rfl⟩
    · exact .inr (.inr ⟨rfl, hm, rfl⟩)
    · exact .inr (.inl ⟨rfl, rfl, he⟩)
    · exact .inl ⟨hb, hm, he⟩
    · exact .inl ⟨hb, hm, he⟩
  · rw [tickEncoder, if_pos hb] at h
    obtain ⟨v, -, -, rfl⟩ := emitNext_next h
    simp only [doneAfter]
    split
    · exact .inr ⟨rfl, rfl⟩
    · exact .inl ⟨hb, hl⟩
  · rw [tickEncoder, if_pos hb] at h
    have hmsg := State.messageIn_written hem
    obtain ⟨-, hlast, hol, -⟩ := emitNext_last hb h hdone
    have hlen : (encodeMessage s.cfg m).length = m.frameLength := hmsg ▸ encodeMessage_length hinv.emsg
    rw [hmsg, hlen] at hlast
    exact ⟨hol.trans (congrArg some hlast.symm), hlen, hmsg ▸ hinv.emitNext_last_holds hb h hdone⟩

end Sys2Proof.Machine
end

section
/-! SUPPORT. The bytes of a frame (R61, R66, R71): its length, the seven bytes it begins with, the kind and catalogue
bytes that are unassigned, and frames written out from their encodings. -/

namespace Sys2Proof

/-! ## Behind the header and the address -/

/-- R193: behind the header and a valid address byte, the frame is what its kind's arm reads. -/
theorem decodeMessage_header {v : Byte} {a : DeviceAddress} (ha : addressDecodeByte v = some a) (c : Config) (k : Byte)
    (rest : List Byte) : decodeMessage c (header ++ v :: k :: rest) = decodeKind c a k rest := by
  have hheader : expectHeader (header ++ v :: k :: rest) = .ok (v :: k :: rest) := expectHeader_ok.2 rfl
  have haddr : readAddress (v :: k :: rest) = .ok (a, k :: rest) := readAddress_ok.2 ⟨v, rfl, ha⟩
  have hkind : readByte (k :: rest) = .ok (k, rest) := readByte_ok.2 rfl
  simp [decodeMessage, hheader, haddr, hkind]

/-- R185: the dispatch has no arm but the five. -/
theorem decodeKind_unknown {k : Byte} (hk : k ∉ [kSet, kRestore, kReqVer, kRepVer, kUpdate]) (c : Config)
    (a : DeviceAddress) (bs : List Byte) : decodeKind c a k bs = .error .unknownOpcode := by
  simp only [List.mem_cons, List.not_mem_nil, or_false, not_or] at hk
  obtain ⟨hset, hrestore, hreq, hrep, hupdate⟩ := hk
  rw [decodeKind, if_neg hset, if_neg hrestore, if_neg hreq, if_neg hrep, if_neg hupdate]

/-- A kind byte that leads to a message is one of the five. -/
theorem decodeKind_ok_kind {c : Config} {a : DeviceAddress} {k : Byte} {bs : List Byte} {m : Message}
    (h : decodeKind c a k bs = .ok m) : k ∈ [kSet, kRestore, kReqVer, kRepVer, kUpdate] := by
  by_contra hk
  rw [decodeKind_unknown hk] at h
  exact absurd h (by simp)

/-! ## Catalogue opcodes -/

/-- R152: an opcode with an empty slot is unknown. -/
theorem readParameter_unknown {c : Config} {op : Byte} (h : c.slotAt op = none) (rest : List Byte) :
    readParameter c (op :: rest) = .error .unknownOpcode := by
  simp [readParameter, h]

/-- R151 item 1: an admissible table has no slot beyond 0x3B. -/
theorem Config.slotAt_eq_none_of_le {c : Config} (hc : c.Admissible) {op : Byte} (h : 0x3C ≤ op.toNat) :
    c.slotAt op = none := by
  obtain ⟨-, hrange, -⟩ := hc
  rw [Option.eq_none_iff_forall_ne_some]
  intro e he
  obtain ⟨hmem, rfl⟩ := Config.slotAt_some he
  have := hrange e hmem
  omega

/-- R151 item 2: an admissible table has no slot at a message kind. -/
theorem Config.slotAt_eq_none_of_kind {c : Config} (hc : c.Admissible) {op : Byte}
    (h : op ∈ [kSet, kRestore, kUpdate, kReqVer, kRepVer]) : c.slotAt op = none := by
  obtain ⟨-, -, hkinds, -⟩ := hc
  rw [Option.eq_none_iff_forall_ne_some]
  intro e he
  obtain ⟨hmem, rfl⟩ := Config.slotAt_some he
  exact hkinds e hmem h

/-- Settles O9: the kind dispatch has no sixth arm, and each catalogue byte named has an empty slot by R151. -/
theorem unassignedOpcodesAreUnknown : Obligations.UnassignedOpcodesAreUnknown := by
  refine fun c hc => ⟨fun v k a rest ha hk => ?_, fun op rest h => readParameter_unknown ?_ rest⟩
  · rw [decodeMessage_header ha, decodeKind_unknown hk]
  · rcases h with hnone | hbeyond | rfl | rfl
    · exact hnone
    · exact Config.slotAt_eq_none_of_le hc hbeyond
    · exact Config.slotAt_eq_none_of_kind hc (by decide)
    · exact Config.slotAt_eq_none_of_kind hc (by decide)

/-! ## Length, and the first seven bytes -/

/-- Settles O23: by the lengths of encoded and of decoded frames; the lengths of the kinds and shapes are those of
`frameLength` itself. -/
theorem frameLengths : Obligations.FrameLengths :=
  fun _ hc => ⟨fun _ => encodeMessage_length, fun _ _ => decodeMessage_length hc, fun _ => ⟨rfl, rfl⟩,
    fun _ _ => ⟨rfl, rfl⟩, fun _ _ _ => ⟨rfl, rfl⟩, fun _ _ _ _ => ⟨rfl, rfl⟩, fun _ _ => rfl⟩

/-- R183: the bytes that are addresses. -/
theorem addressDecodeByte_range {v : Byte} {a : DeviceAddress} (h : addressDecodeByte v = some a) :
    v.toNat ≤ 0x0F ∨ v = bcast := by
  simp only [addressDecodeByte] at h
  split at h
  · exact .inl ‹_›
  · split at h
    · exact .inr ‹_›
    · exact absurd h (by simp)

/-- R184: an address reads back from its byte. -/
theorem DeviceAddress.decode_encode {a : DeviceAddress} (h : a.wf = true) : addressDecodeByte a.encode = some a := by
  cases a with
  | channel n =>
    simp only [DeviceAddress.wf, decide_eq_true_eq] at h
    have hbyte : (DeviceAddress.channel n).encode.toNat = n - 1 := byte_ofNat_toNat (by omega)
    rw [addressDecodeByte, hbyte, if_pos (by omega), Nat.sub_add_cancel h.1]
  | broadcast => rfl

theorem Message.wf_address {c : Config} {m : Message} (h : m.wf c = true) : m.address.wf = true := by
  cases m with
  | setParameter a pv => exact (Bool.and_eq_true_iff.1 h).1
  | restoreParameter a => exact h
  | requestVersion a => exact h
  | reportVersion a s => exact (Bool.and_eq_true_iff.1 h).1
  | parameterUpdate a pv => exact (Bool.and_eq_true_iff.1 h).1

/-- R194: a frame emitted is the header, the address byte, one of the five kinds, and the rest. -/
theorem encodeMessage_header (c : Config) (m : Message) :
    ∃ k rest, encodeMessage c m = header ++ m.address.encode :: k :: rest ∧
      k ∈ [kSet, kRestore, kReqVer, kRepVer, kUpdate] := by
  cases m with
  | setParameter a pv => exact ⟨kSet, _, rfl, by decide⟩
  | restoreParameter a => exact ⟨kRestore, _, rfl, by decide⟩
  | requestVersion a => exact ⟨kReqVer, _, rfl, by decide⟩
  | reportVersion a s => exact ⟨kRepVer, _, rfl, by decide⟩
  | parameterUpdate a pv => exact ⟨kUpdate, _, rfl, by decide⟩

/-- Settles O24: on both sides the address byte decodes, and the dispatch has an arm for the kind byte. -/
theorem framePrefix : Obligations.FramePrefix := by
  rintro c bs m - (⟨hw, rfl⟩ | hd)
  · obtain ⟨k, rest, heq, hk⟩ := encodeMessage_header c m
    exact ⟨_, k, rest, heq, addressDecodeByte_range (DeviceAddress.decode_encode (Message.wf_address hw)), hk⟩
  · obtain ⟨v, k, rest, a, heq, ha, hm⟩ := decodeMessage_ok hd
    exact ⟨v, k, rest, heq, addressDecodeByte_range ha, decodeKind_ok_kind hm⟩

/-! ## Frames written out -/

theorem Config.slotAt_paraphonicMode {c : Config} (hc : c.Admissible) : c.slotAt 0x0F#8 = some paraphonicSlot := by
  obtain ⟨-, -, -, -, -, hmem, -⟩ := id hc
  exact Config.slotAt_of_mem hc hmem

/-- R157: the entry at 0x0F reads its toggle. -/
theorem readParameter_paraphonicMode {c : Config} (hc : c.Admissible) (t : Toggle) (rest : List Byte) :
    readParameter c (0x0F#8 :: t.encode :: rest) = .ok (⟨.paraphonicMode, .one (.toggle t)⟩, rest) := by
  rw [readParameter, Config.slotAt_paraphonicMode hc]
  cases t <;> rfl

/-- R193: a frame decodes to the instruction of the message its kind's arm answers. -/
theorem decode_frame_header {c : Config} {v k : Byte} {a : DeviceAddress} {rest : List Byte} {m : Message}
    (ha : addressDecodeByte v = some a) (hm : decodeKind c a k rest = .ok m) :
    decode c .frame (header ++ v :: k :: rest) = .ok m.toInstr := by
  rw [decode, decodeMessage_header ha, hm]
  rfl

theorem decodeKind_set_ok {c : Config} {a : DeviceAddress} {bs : List Byte} {pv : ParameterValue}
    (h : readParameter c bs = .ok (pv, [eox])) : decodeKind c a kSet bs = .ok (.setParameter a pv) := by
  rw [decodeKind_set, h]
  rfl

theorem decodeKind_update_ok {c : Config} {a : DeviceAddress} {bs : List Byte} {pv : ParameterValue}
    (h : readParameter c bs = .ok (pv, [eox])) :
    decodeKind c a kUpdate (version :: bs) = .ok (.parameterUpdate a pv) := by
  have hversion : expectVersion (version :: bs) = .ok bs := expect_ok.2 rfl
  rw [decodeKind_update, hversion, except_ok_bind, h]
  rfl

/-- Settles O50: each frame by its kind's arm, the entry in it by the slot R151 puts at 0x0F. -/
theorem writtenOutFramesDecode : Obligations.WrittenOutFramesDecode := by
  intro c hc
  have hentry := readParameter_paraphonicMode hc .on
  refine ⟨?set, ?update, ?report, ?restore, ?request, ?entry⟩
  case set => exact decode_frame_header (a := .broadcast) rfl (decodeKind_set_ok (hentry [eox]))
  case update => exact decode_frame_header (a := .channel 1) rfl (decodeKind_update_ok (hentry [eox]))
  case report => exact decode_frame_header (a := .broadcast) (m := .reportVersion _ _) rfl rfl
  case restore => exact decode_frame_header (a := .channel 15) (m := .restoreParameter _) rfl rfl
  case request => exact decode_frame_header (a := .channel 3) (m := .requestVersion _) rfl rfl
  case entry => exact congrArg (Except.map fun r => r.1.toInstr) (hentry [])

end Sys2Proof
end

section
/-! SUPPORT. The value codecs (R100 to R113): each codec as an equation over its bytes, the byte of each numeric value,
and that reading and writing undo each other. From them the statements about codecs and field reads (R117, R118). -/

namespace Sys2Proof

namespace Domain

/-! ## The enumerated codecs over their bytes -/

section
variable (v : Byte)

theorem decodeByte_toggle : toggle.decodeByte v =
    if v = 0x00#8 then some (.toggle .off) else if v = 0x01#8 then some (.toggle .on) else none := by
  simp only [decodeByte, Toggle.decodeByte, ← BitVec.toNat_inj, BitVec.toNat_ofNat]
  split <;> simp_all

theorem decodeByte_blendMode : blendMode.decodeByte v =
    if v = 0x00#8 then some (.blendMode .blend) else if v = 0x01#8 then some (.blendMode .switch) else none := by
  simp only [decodeByte, BlendMode.decodeByte, ← BitVec.toNat_inj, BitVec.toNat_ofNat]
  split <;> simp_all

theorem decodeByte_oscRange : oscRange.decodeByte v =
    if v = 0x00#8 then some (.oscRange .oscRange0) else if v = 0x01#8 then some (.oscRange .oscRange1)
    else if v = 0x02#8 then some (.oscRange .oscRange2) else if v = 0x03#8 then some (.oscRange .oscRange3)
    else none := by
  simp only [decodeByte, OscRange.decodeByte, ← BitVec.toNat_inj, BitVec.toNat_ofNat]
  split <;> simp_all

theorem decodeByte_keyTrackMode : keyTrackMode.decodeByte v =
    if v = 0x00#8 then some (.keyTrackMode .track) else if v = 0x01#8 then some (.keyTrackMode .hold) else none := by
  simp only [decodeByte, KeyTrackMode.decodeByte, ← BitVec.toNat_inj, BitVec.toNat_ofNat]
  split <;> simp_all

theorem decodeByte_lfoShape : lfoShape.decodeByte v =
    if v = 0x00#8 then some (.lfoShape .lfoShape0) else if v = 0x01#8 then some (.lfoShape .lfoShape1)
    else if v = 0x02#8 then some (.lfoShape .lfoShape2) else if v = 0x03#8 then some (.lfoShape .lfoShape3)
    else if v = 0x04#8 then some (.lfoShape .lfoShape4) else none := by
  simp only [decodeByte, LfoShape.decodeByte, ← BitVec.toNat_inj, BitVec.toNat_ofNat]
  split <;> simp_all

theorem decodeByte_modSource : modSource.decodeByte v =
    if v = 0x00#8 then some (.modSource .modSource0) else if v = 0x01#8 then some (.modSource .modSource1)
    else if v = 0x02#8 then some (.modSource .modSource2) else if v = 0x03#8 then some (.modSource .modSource3)
    else none := by
  simp only [decodeByte, ModSource.decodeByte, ← BitVec.toNat_inj, BitVec.toNat_ofNat]
  split <;> simp_all

theorem decodeByte_assignOutTarget : assignOutTarget.decodeByte v =
    if v = 0x00#8 then some (.assignOutTarget .assignOut0) else if v = 0x01#8 then some (.assignOutTarget .assignOut1)
    else if v = 0x02#8 then some (.assignOutTarget .assignOut2)
    else if v = 0x03#8 then some (.assignOutTarget .assignOut3)
    else if v = 0x04#8 then some (.assignOutTarget .assignOut4) else none := by
  simp only [decodeByte, AssignOutTarget.decodeByte, ← BitVec.toNat_inj, BitVec.toNat_ofNat]
  split <;> simp_all

theorem decodeByte_envRetriggerMode : envRetriggerMode.decodeByte v =
    if v = 0x00#8 then some (.envRetriggerMode .staccato) else if v = 0x01#8 then some (.envRetriggerMode .legato)
    else none := by
  simp only [decodeByte, EnvRetriggerMode.decodeByte, ← BitVec.toNat_inj, BitVec.toNat_ofNat]
  split <;> simp_all

/-! ## The numeric codecs over their bytes -/

theorem decodeByte_semitoneOffset : semitoneOffset.decodeByte v =
    if v.toNat ≤ 0x18 then some (.semitoneOffset ((v.toNat : Int) - 12)) else none :=
  apply_ite (Option.map FieldValue.semitoneOffset) _ _ _

theorem decodeByte_lfoIndex :
    lfoIndex.decodeByte v = if v.toNat ≤ 0x04 then some (.lfoIndex (v.toNat + 1)) else none :=
  apply_ite (Option.map FieldValue.lfoIndex) _ _ _

theorem decodeByte_lfoPhaseOffset :
    lfoPhaseOffset.decodeByte v = if v.toNat ≤ 0x07 then some (.lfoPhaseOffset (45 * v.toNat)) else none :=
  apply_ite (Option.map FieldValue.lfoPhaseOffset) _ _ _

theorem decodeByte_midiChannel :
    midiChannel.decodeByte v = if v.toNat ≤ 0x0F then some (.midiChannel (v.toNat + 1)) else none :=
  apply_ite (Option.map FieldValue.midiChannel) _ _ _

theorem decodeByte_percentage :
    percentage.decodeByte v = if v.toNat ≤ 0x3F then some (.percentage v.toNat) else none :=
  apply_ite (Option.map FieldValue.percentage) _ _ _

end

end Domain

namespace FieldValue

theorem encode_semitoneOffset {s : Int} (hlo : -12 ≤ s) (hhi : s ≤ 12) :
    ((semitoneOffset s).encode.toNat : Int) = s + 12 := by
  rw [encode, semitoneEncode, byte_ofNat_toNat (by omega), Int.toNat_of_nonneg (by omega)]

theorem encode_lfoIndex {n : Nat} (h : n ≤ 5) : (lfoIndex n).encode.toNat = n - 1 := byte_ofNat_toNat (by omega)

theorem encode_lfoPhaseOffset {k : Nat} (h : k ≤ 7) : (lfoPhaseOffset (45 * k)).encode.toNat = k := by
  rw [encode, lfoPhaseEncode, Nat.mul_div_cancel_left k (by decide), byte_ofNat_toNat (by omega)]

theorem encode_midiChannel {n : Nat} (h : n ≤ 16) : (midiChannel n).encode.toNat = n - 1 := byte_ofNat_toNat (by omega)

theorem encode_percentage {l : Nat} (h : l ≤ 63) : (percentage l).encode.toNat = l := byte_ofNat_toNat (by omega)

end FieldValue

/-! ## Reading and writing undo each other -/

/-- R100: the bytes a codec reads are those from 0x00 to its last. -/
theorem Domain.decodeByte_isSome (d : Domain) (v : Byte) : (d.decodeByte v).isSome = true ↔ v.toNat ≤ d.lastByte := by
  cases d
  case toggle | blendMode | oscRange | keyTrackMode | lfoShape | modSource | assignOutTarget | envRetriggerMode =>
    simp only [decodeByte_toggle, decodeByte_blendMode, decodeByte_oscRange, decodeByte_keyTrackMode,
      decodeByte_lfoShape, decodeByte_modSource, decodeByte_assignOutTarget, decodeByte_envRetriggerMode, lastByte]
    split_ifs <;> simp <;> bv_omega
  case semitoneOffset | lfoIndex | lfoPhaseOffset | midiChannel | percentage =>
    simp only [decodeByte_semitoneOffset, decodeByte_lfoIndex, decodeByte_lfoPhaseOffset, decodeByte_midiChannel,
      decodeByte_percentage, lastByte, Option.isSome_ite]

/-- R100: a byte that reads as a value is that value's byte. -/
theorem Domain.encode_of_decodeByte {d : Domain} {v : Byte} {f : FieldValue} (h : d.decodeByte v = some f) :
    f.encode = v := by
  cases d
  case toggle | blendMode | oscRange | keyTrackMode | lfoShape | modSource | assignOutTarget | envRetriggerMode =>
    simp only [decodeByte_toggle, decodeByte_blendMode, decodeByte_oscRange, decodeByte_keyTrackMode,
      decodeByte_lfoShape, decodeByte_modSource, decodeByte_assignOutTarget, decodeByte_envRetriggerMode] at h
    split_ifs at h <;> cases h <;> subst v <;> rfl
  all_goals
    simp only [decodeByte_semitoneOffset, decodeByte_lfoIndex, decodeByte_lfoPhaseOffset, decodeByte_midiChannel,
      decodeByte_percentage, Option.ite_none_right_eq_some, Option.some.injEq] at h
    obtain ⟨hrange, rfl⟩ := h
    apply BitVec.eq_of_toNat_eq
  case semitoneOffset =>
    have hbyte := FieldValue.encode_semitoneOffset (s := (v.toNat : Int) - 12) (by omega) (by omega)
    omega
  case lfoIndex => exact FieldValue.encode_lfoIndex (Nat.succ_le_succ hrange)
  case lfoPhaseOffset => exact FieldValue.encode_lfoPhaseOffset hrange
  case midiChannel => exact FieldValue.encode_midiChannel (Nat.succ_le_succ hrange)
  case percentage => exact FieldValue.encode_percentage hrange

/-- R100: a value reads back from its byte. -/
theorem FieldValue.decode_encode {f : FieldValue} (h : f.wf = true) : f.domain.decodeByte f.encode = some f := by
  cases f <;> simp only [wf, decide_eq_true_eq] at h
  case toggle t => cases t <;> rfl
  case blendMode m => cases m <;> rfl
  case oscRange r => cases r <;> rfl
  case keyTrackMode m => cases m <;> rfl
  case semitoneOffset s =>
    have hbyte := encode_semitoneOffset h.1 h.2
    rw [domain, Domain.decodeByte_semitoneOffset, if_pos (by omega), hbyte, Int.add_sub_cancel]
  case lfoIndex n =>
    rw [domain, Domain.decodeByte_lfoIndex, encode_lfoIndex h.2, if_pos (by omega), Nat.sub_add_cancel h.1]
  case lfoShape s => cases s <;> rfl
  case lfoPhaseOffset d =>
    obtain ⟨k, rfl⟩ := Nat.dvd_of_mod_eq_zero h.1
    have hk : k ≤ 7 := by omega
    rw [domain, Domain.decodeByte_lfoPhaseOffset, encode_lfoPhaseOffset hk, if_pos hk]
  case modSource m => cases m <;> rfl
  case assignOutTarget t => cases t <;> rfl
  case envRetriggerMode m => cases m <;> rfl
  case midiChannel n =>
    rw [domain, Domain.decodeByte_midiChannel, encode_midiChannel h.2, if_pos (by omega), Nat.sub_add_cancel h.1]
  case percentage l => rw [domain, Domain.decodeByte_percentage, encode_percentage h, if_pos h]

/-- Settles O1: the values of a domain with one byte both read back from it. -/
theorem codecReadsInvertWrites : Obligations.CodecReadsInvertWrites := by
  refine fun d => ⟨d.decodeByte_isSome, ?decode, fun v f h => ?read, ?inj⟩
  case decode =>
    rintro f rfl hf
    exact FieldValue.decode_encode hf
  case read => exact ⟨Domain.decodeByte_domain h, Domain.decodeByte_wf h, Domain.encode_of_decodeByte h⟩
  case inj =>
    rintro f g rfl hdomain hf hg hbyte
    have hread := FieldValue.decode_encode hg
    rw [hdomain, ← hbyte, FieldValue.decode_encode hf] at hread
    exact Option.some.inj hread

/-- Settles O2: the equation of each codec, and the byte `encode` gives each enumerator. -/
theorem enumeratorCodecTables : Obligations.EnumeratorCodecTables := by
  refine ⟨Domain.decodeByte_toggle, Domain.decodeByte_blendMode, Domain.decodeByte_oscRange,
    Domain.decodeByte_keyTrackMode, Domain.decodeByte_lfoShape, Domain.decodeByte_modSource,
    Domain.decodeByte_assignOutTarget, Domain.decodeByte_envRetriggerMode, ?_⟩
  decide

/-- Settles O3: the equation of each codec, and that each value's byte fits in eight bits. -/
theorem numericCodecArithmetic : Obligations.NumericCodecArithmetic :=
  ⟨Domain.decodeByte_semitoneOffset, Domain.decodeByte_lfoIndex, Domain.decodeByte_lfoPhaseOffset,
    Domain.decodeByte_midiChannel, Domain.decodeByte_percentage, fun _ => FieldValue.encode_semitoneOffset,
    fun _ _ => FieldValue.encode_lfoIndex, fun _ => FieldValue.encode_lfoPhaseOffset,
    fun _ _ => FieldValue.encode_midiChannel, fun _ => FieldValue.encode_percentage⟩

/-! ## Field reads -/

/-- R117: a byte outside the codec's range. -/
theorem readField_invalid {d : Domain} {v : Byte} (h : d.decodeByte v = none) (rest : List Byte) :
    readField d (v :: rest) = .error .invalidEnumValue := by
  rw [readField, h]

/-- Settles O4: the empty rest is the first arm of each read, and what a read answers is what the codec does. -/
theorem fieldReadChecksLengthThenValue : Obligations.FieldReadChecksLengthThenValue :=
  fun _ v rest => ⟨rfl, fun h => readField_invalid h rest, fun _ h => readField_ok.2 ⟨v, rfl, h⟩, rfl,
    readPlaceholder_ok.2 ⟨v, rfl⟩⟩

theorem pctToLevel_le (x : Nat) : pctToLevel x ≤ 63 := by
  rw [pctToLevel]
  omega

/-- Settles O5: a value reads back from its byte, and a level is a value of the percentage codec. -/
theorem fieldReadReturnsWrittenValue : Obligations.FieldReadReturnsWrittenValue := by
  refine ⟨fun f _ hf => readField_ok.2 ⟨f.encode, rfl, FieldValue.decode_encode hf⟩,
    fun v _ => readPlaceholder_ok.2 ⟨v, rfl⟩, fun x => ?_⟩
  have hlevel : (FieldValue.percentage (pctToLevel x)).wf = true := decide_eq_true (pctToLevel_le x)
  exact FieldValue.decode_encode hlevel

end Sys2Proof
end

section
/-! SUPPORT. The quantizer (R115): its levels by the least percentage that reaches each, and its port. -/

namespace Sys2Proof

/-- The least percentage at level `l` or above: the ceiling of `100 * l / 63`. -/
def firstPct (l : Nat) : Nat := (100 * l + 62) / 63

theorem le_pctToLevel_iff {l x : Nat} (hx : x ≤ 100) : l ≤ pctToLevel x ↔ firstPct l ≤ x := by
  rw [pctToLevel, firstPct, Nat.min_eq_left hx]
  omega

/-- The percentages at a level are an interval. -/
theorem pctToLevel_eq_iff {l x : Nat} (hx : x ≤ 100) :
    pctToLevel x = l ↔ firstPct l ≤ x ∧ x < firstPct (l + 1) := by
  rw [← le_pctToLevel_iff hx, ← Nat.not_le, ← le_pctToLevel_iff hx]
  omega

theorem countP_range_interval (a b n : Nat) :
    (List.range n).countP (fun x => decide (a ≤ x ∧ x < b)) = min b n - min a n := by
  induction n with
  | zero => simp
  | succ n ih =>
    rw [List.range_succ, List.countP_append, ih, List.countP_singleton]
    simp only [decide_eq_true_eq]
    split <;> omega

/-- How many of the percentages 0..100 a level has. -/
theorem countP_pctToLevel (l : Nat) :
    (List.range 101).countP (fun x => pctToLevel x == l) = min (firstPct (l + 1)) 101 - min (firstPct l) 101 := by
  rw [← countP_range_interval]
  refine List.countP_congr fun x hx => ?_
  rw [beq_iff_eq, decide_eq_true_eq]
  exact pctToLevel_eq_iff (Nat.le_of_lt_succ (List.mem_range.1 hx))

/-- The floor, by the bounds that define it (R115). -/
theorem pctToLevel_floor (x : Nat) :
    100 * pctToLevel x ≤ min x 100 * 63 ∧ min x 100 * 63 < 100 * (pctToLevel x + 1) :=
  ⟨Nat.mul_div_le _ _, Nat.lt_mul_div_succ _ (by decide)⟩

theorem pctToLevel_mono {x y : Nat} (h : x ≤ y) : pctToLevel x ≤ pctToLevel y :=
  Nat.div_le_div_right (Nat.mul_le_mul_right 63 (min_le_min_right 100 h))

theorem pctToLevel_eq_top_iff (x : Nat) : pctToLevel x = 63 ↔ 100 ≤ x := by
  rw [pctToLevel]
  omega

/-- Settles O6: a level's percentages are counted as an interval between two first percentages. -/
theorem quantizerIsExactFloor : Obligations.QuantizerIsExactFloor := by
  refine ⟨pctToLevel_floor, fun x => ⟨pctToLevel_le x, pctToLevel_eq_top_iff x⟩, fun _ _ => pctToLevel_mono,
    fun l hl => ?onceOrTwice, ?twice, fun s rest x hx h => ?port⟩
  case onceOrTwice =>
    rw [countP_pctToLevel, firstPct, firstPct]
    omega
  case twice =>
    simp only [countP_pctToLevel]
    decide
  case port =>
    rw [Machine.step_request h]
    exact Machine.quantize_natCast hx _

end Sys2Proof
end

section
/-! SUPPORT. Reading and writing an entry by its slot's shape (R150 to R156). From it the statements about the
demultiplexer, the bytes of an entry and the catalogue laws (R164). -/

namespace Sys2Proof

/-! ## The demultiplexer by shape -/

theorem readPayload_one (d : Domain) (bs : List Byte) :
    readPayload (.one d) bs = (readField d bs).map fun r => (.one r.1, r.2) := by
  rw [readPayload]
  cases readField d bs <;> rfl

/-- R155: a pair's index is checked before its value is read. -/
theorem readPayload_pair_invalid {d1 : Domain} {v : Byte} (h : d1.decodeByte v = none) (d2 : Domain)
    (bs : List Byte) : readPayload (.pair d1 d2) (v :: bs) = .error .invalidEnumValue := by
  rw [readPayload, readField_invalid h]
  rfl

theorem readPayload_pair {d1 : Domain} {v : Byte} {f : FieldValue} (h : d1.decodeByte v = some f) (d2 : Domain)
    (bs : List Byte) :
    readPayload (.pair d1 d2) (v :: bs) = (readField d2 bs).map fun r => (.pair f r.1, r.2) := by
  simp only [readPayload, readField_ok.2 ⟨v, rfl, h⟩, except_ok_bind]
  cases readField d2 bs <;> rfl

section
variable {c : Config} {op : Byte} {e : Slot}

/-- R152: behind the opcode of a slot stands a payload of the slot's shape. -/
theorem readParameter_slot (he : c.slotAt op = some e) (bs : List Byte) :
    readParameter c (op :: bs) = (readPayload e.shape bs).map fun r => (⟨e.name, r.1⟩, r.2) := by
  simp only [readParameter, he]
  cases readPayload e.shape bs <;> rfl

theorem readParameter_unitSlot (he : c.slotAt op = some e) (hs : e.shape = .unit) :
    readParameter c [op] = .error .truncatedInput ∧
      ∀ x rest, readParameter c (op :: x :: rest) = .ok (⟨e.name, .unit⟩, rest) := by
  refine ⟨?_, fun x rest => ?_⟩ <;> rw [readParameter_slot he, hs] <;> rfl

theorem readParameter_oneSlot {d : Domain} (he : c.slotAt op = some e) (hs : e.shape = .one d) :
    readParameter c [op] = .error .truncatedInput ∧
      ∀ v rest, (d.decodeByte v = none → readParameter c (op :: v :: rest) = .error .invalidEnumValue) ∧
        ∀ f, d.decodeByte v = some f → readParameter c (op :: v :: rest) = .ok (⟨e.name, .one f⟩, rest) := by
  refine ⟨?truncated, fun v rest => ⟨fun hv => ?invalid, fun f hv => ?value⟩⟩ <;>
    rw [readParameter_slot he, hs, readPayload_one]
  case truncated => rfl
  case invalid => rw [readField_invalid hv]; rfl
  case value => rw [readField_ok.2 ⟨v, rfl, hv⟩]; rfl

theorem readParameter_pairSlot {d1 d2 : Domain} (he : c.slotAt op = some e) (hs : e.shape = .pair d1 d2) :
    readParameter c [op] = .error .truncatedInput ∧
      ∀ v1, (d1.decodeByte v1 = none → ∀ rest, readParameter c (op :: v1 :: rest) = .error .invalidEnumValue) ∧
        ∀ f1, d1.decodeByte v1 = some f1 →
          readParameter c [op, v1] = .error .truncatedInput ∧
          ∀ v2 rest, (d2.decodeByte v2 = none → readParameter c (op :: v1 :: v2 :: rest) = .error .invalidEnumValue) ∧
            ∀ f2, d2.decodeByte v2 = some f2 →
              readParameter c (op :: v1 :: v2 :: rest) = .ok (⟨e.name, .pair f1 f2⟩, rest) := by
  refine ⟨?truncated, fun v1 => ⟨fun hv1 rest => ?index, fun f1 hv1 =>
    ⟨?truncatedValue, fun v2 rest => ⟨fun hv2 => ?value, fun f2 hv2 => ?pair⟩⟩⟩⟩ <;>
    rw [readParameter_slot he, hs]
  case truncated => rfl
  case index => rw [readPayload_pair_invalid hv1]; rfl
  case truncatedValue => rw [readPayload_pair hv1]; rfl
  case value => rw [readPayload_pair hv1, readField_invalid hv2]; rfl
  case pair => rw [readPayload_pair hv1, readField_ok.2 ⟨v2, rfl, hv2⟩]; rfl

end

/-- Settles O7: an opcode with a slot is followed by a payload of the slot's shape, read field by field. -/
theorem demultiplexerReadsEntryByShape : Obligations.DemultiplexerReadsEntryByShape :=
  fun _ _ _ => ⟨rfl, readParameter_unknown, readParameter_unitSlot, fun _ => readParameter_oneSlot,
    fun _ _ => readParameter_pairSlot⟩

/-! ## Reading back what was written -/

/-- R118, R156: a payload reads back from its bytes. -/
theorem readPayload_encode {p : Payload} (h : p.wf = true) (rest : List Byte) :
    readPayload p.shape (p.encode ++ rest) = .ok (p, rest) := by
  have hfield : ∀ {f : FieldValue} (bs : List Byte), f.wf = true → readField f.domain (f.encode :: bs) = .ok (f, bs) :=
    fun bs hf => readField_ok.2 ⟨_, rfl, FieldValue.decode_encode hf⟩
  cases p with
  | unit => rfl
  | one f => exact (readPayload_one _ _).trans (congrArg _ (hfield rest h))
  | pair f1 f2 =>
    obtain ⟨h1, h2⟩ := Bool.and_eq_true_iff.1 h
    exact (readPayload_pair (FieldValue.decode_encode h1) _ _).trans (congrArg _ (hfield rest h2))

/-- R156: an entry is the opcode of its name and the bytes of its payload. -/
theorem encodeParameter_opcode {c : Config} {pv : ParameterValue} {op : Byte} (h : c.opcodeOf pv.name = some op) :
    encodeParameter c pv = op :: pv.payload.encode := by
  rw [encodeParameter, h]

/-- R164: an entry reads back from its bytes. -/
theorem readParameter_encodeParameter {c : Config} {pv : ParameterValue} (hc : c.Admissible) (hw : pv.wf c = true)
    (rest : List Byte) : readParameter c (encodeParameter c pv ++ rest) = .ok (pv, rest) := by
  obtain ⟨e, hn, hs, hop, hp⟩ := ParameterValue.wf_slot hw
  obtain ⟨hmem, hname⟩ := Config.slotNamed_some hn
  rw [encodeParameter_opcode hop, List.cons_append, readParameter_slot (Config.slotAt_of_mem hc hmem), hs,
    readPayload_encode hp, hname]
  rfl

/-- R156: two entries with the same bytes are the same. -/
theorem encodeParameter_injective {c : Config} {pv pv' : ParameterValue} (hc : c.Admissible) (hw : pv.wf c = true)
    (hw' : pv'.wf c = true) (h : encodeParameter c pv = encodeParameter c pv') : pv = pv' := by
  have hread := readParameter_encodeParameter hc hw []
  rw [h, readParameter_encodeParameter hc hw' []] at hread
  exact (Prod.mk.inj (Except.ok.inj hread)).1.symm

/-- R164: a reading of an entry depends on the table alone. -/
theorem readParameter_congr {c c' : Config} (h : c.cat = c'.cat) (bs : List Byte) :
    readParameter c bs = readParameter c' bs := by
  have hslot : c.slotAt = c'.slotAt := by
    funext op
    rw [Config.slotAt, h, Config.slotAt]
  cases bs with
  | nil => rfl
  | cons op rest => rw [readParameter, hslot, readParameter]

/-- R151, R164: an admissible table has one slot for each opcode and for each name. -/
theorem Config.slot_unique {c : Config} (hc : c.Admissible) {e e' : Slot} (he : e ∈ c.cat) (he' : e' ∈ c.cat)
    (h : e.opcode = e'.opcode ∨ e.name = e'.name) : e = e' := by
  rcases h with hop | hname
  · have hslot := Config.slotAt_of_mem hc he
    rw [hop, Config.slotAt_of_mem hc he'] at hslot
    exact (Option.some.inj hslot).symm
  · have hslot := Config.slotNamed_of_mem hc he
    rw [hname, Config.slotNamed_of_mem hc he'] at hslot
    exact (Option.some.inj hslot).symm

/-- R151 item 2: a slot's opcode is no message kind. -/
theorem Config.opcode_not_kind {c : Config} (hc : c.Admissible) {e : Slot} (he : e ∈ c.cat) :
    e.opcode ∉ [kSet, kRestore, kUpdate, kReqVer, kRepVer] := by
  obtain ⟨-, -, hkinds, -⟩ := hc
  exact hkinds e he

/-- Settles O8: a reading depends on the lookup by opcode, a value reads back through the slot of its name, and R151
keeps opcodes and names apart. -/
theorem catalogueLaws : Obligations.CatalogueLaws := by
  refine ⟨fun c c' bs h => readParameter_congr h bs, fun c hc => ⟨fun pv rest hw => ?_,
    fun e he e' he' => Config.slot_unique hc he he', fun e he => ?_, fun op rest h => readParameter_unknown h rest⟩⟩
  · exact readParameter_encodeParameter hc hw rest
  · have hkind := Config.opcode_not_kind hc he
    simp only [List.mem_cons] at hkind ⊢
    tauto

/-- R113, R156: every byte behind an entry's opcode is at most 0x3F. -/
theorem Payload.encode_le {p : Payload} (h : p.wf = true) : ∀ b ∈ p.encode, b.toNat ≤ 0x3F := by
  cases p with
  | unit => decide
  | one f => simpa [Payload.encode] using FieldValue.encode_le h
  | pair f1 f2 =>
    obtain ⟨h1, h2⟩ := Bool.and_eq_true_iff.1 h
    simpa [Payload.encode] using ⟨FieldValue.encode_le h1, FieldValue.encode_le h2⟩

/-- R156: every byte of an entry is below 0x80: its opcode by R151 item 1, its payload by the codecs' ranges. -/
theorem encodeParameter_lt {c : Config} {pv : ParameterValue} (hc : c.Admissible) (hw : pv.wf c = true) :
    ∀ b ∈ encodeParameter c pv, b.toNat < 0x80 := by
  obtain ⟨-, hrange, -⟩ := hc
  obtain ⟨e, hn, -, hop, hp⟩ := ParameterValue.wf_slot hw
  have hopcode := hrange e (Config.slotNamed_some hn).1
  rw [encodeParameter_opcode hop]
  intro b hb
  rcases List.mem_cons.1 hb with rfl | hb
  · omega
  · have := Payload.encode_le hp b hb
    omega

/-- Settles O10: the slot of the value's name gives the opcode, and an entry reads back from its bytes. -/
theorem entryBytesByShape : Obligations.EntryBytesByShape := by
  intro c pv hc hw
  obtain ⟨e, hn, -, hop, -⟩ := ParameterValue.wf_slot hw
  obtain ⟨hmem, hname⟩ := Config.slotNamed_some hn
  have hbytes := encodeParameter_opcode hop
  refine ⟨e.opcode, hop, ⟨e, Config.slotAt_of_mem hc hmem, hname⟩, fun h => ?_, fun f h => ?_, fun f1 f2 h => ?_,
    encodeParameter_lt hc hw, fun pv' hw' => encodeParameter_injective hc hw' hw⟩
  all_goals
    rw [hbytes, h]
    rfl

end Sys2Proof
end

section
/-! SUPPORT. The five named entries (R157 to R161): the slot R151 gives each, and what its bytes decode to. -/

namespace Sys2Proof

/-! ## Entries as instructions -/

section
variable {c : Config} {bs : List Byte}

theorem decode_entry_value {pv : ParameterValue} {rest : List Byte} (h : readParameter c bs = .ok (pv, rest)) :
    decode c .entry bs = .ok pv.toInstr := by
  rw [decode, h]
  rfl

theorem decode_entry_error {e : ErrorKind} (h : readParameter c bs = .error e) : decode c .entry bs = .error e := by
  rw [decode, h]
  rfl

end

/-- R100: beyond its codec's last byte, a byte reads as no value. -/
theorem Domain.decodeByte_eq_none {d : Domain} {v : Byte} (h : d.lastByte < v.toNat) : d.decodeByte v = none := by
  rw [← Option.not_isSome_iff_eq_none, d.decodeByte_isSome, Nat.not_le]
  exact h

/-! ## The slots of the named variants -/

/-- R151 items 4 and 5: each variant the spec names has a slot, of the shape its rule gives. -/
theorem Config.slot_of_namedShape {c : Config} (hc : c.Admissible) {n : VariantName} {sh : Shape}
    (hn : n.namedShape = some sh) :
    ∃ op e, c.opcodeOf n = some op ∧ c.slotAt op = some e ∧ e.name = n ∧ e.shape = sh := by
  obtain ⟨-, -, -, -, -, hparaphonic, hnamed, hshapes, -⟩ := id hc
  have hmem : n ∈ c.cat.map (·.name) := by
    cases n with
    | paraphonicMode => exact List.mem_map_of_mem hparaphonic
    | resetLfoShapeOrder | resetKeyRange | lfoShapeAtIndex | lfoPhaseAtIndex => exact hnamed _ (by decide)
    | unnamed | calibrationModeTrigger | keyRangeBounds | notePriority | pitchBendRange => cases hn
  obtain ⟨e, he, rfl⟩ := List.mem_map.1 hmem
  have hslot := Config.slotAt_of_mem hc he
  have hshape : some sh = some e.shape := by simpa [hn] using hshapes e he
  exact ⟨e.opcode, e, (Config.opcodeOf_of_slotAt hc hslot).1, hslot, rfl, (Option.some.inj hshape).symm⟩

/-- Settles O11: slot 0x0F reads one toggle, and beyond 0x01 no byte is a toggle. -/
theorem paraphonicModeEntry : Obligations.ParaphonicModeEntry := by
  intro c rest hc
  have hslot := Config.slotAt_paraphonicMode hc
  obtain ⟨htruncated, hread⟩ := readParameter_oneSlot hslot rfl
  have hopcode : c.opcodeOf .paraphonicMode = some 0x0F#8 := (Config.opcodeOf_of_slotAt hc hslot).1
  have hbytes : ∀ t : Toggle, encodeParameter c ⟨.paraphonicMode, .one (.toggle t)⟩ = [0x0F#8, t.encode] :=
    fun t => encodeParameter_opcode hopcode
  have hvalue := fun t : Toggle => decode_entry_value (readParameter_paraphonicMode hc t rest)
  refine ⟨hslot, hvalue .off, hvalue .on, fun v hv => ?_, decode_entry_error htruncated, hbytes, ?_⟩
  · exact decode_entry_error ((hread v rest).1 (Domain.decodeByte_eq_none hv))
  · show header ++ bcast :: kSet :: encodeParameter c _ ++ [eox] = _
    rw [hbytes]
    rfl

/-- R158, R159: the entry of a named variant without fields. -/
theorem namedUnitEntry {c : Config} (hc : c.Admissible) {n : VariantName} (hn : n.namedShape = some .unit) :
    ∃ o, c.opcodeOf n = some o ∧ (∃ e, c.slotAt o = some e ∧ e.shape = .unit) ∧
      decode c .entry [o] = .error .truncatedInput ∧
      (∀ x rest, decode c .entry (o :: x :: rest) = .ok (ParameterValue.toInstr ⟨n, .unit⟩)) ∧
      encodeParameter c ⟨n, .unit⟩ = [o, 0x00#8] := by
  obtain ⟨o, e, hop, he, rfl, hs⟩ := Config.slot_of_namedShape hc hn
  obtain ⟨htruncated, hread⟩ := readParameter_unitSlot he hs
  exact ⟨o, hop, ⟨e, he, hs⟩, decode_entry_error htruncated, fun x rest => decode_entry_value (hread x rest),
    encodeParameter_opcode hop⟩

/-- Settles O12: both variants are named ones without fields. -/
theorem namedUnitEntries : Obligations.NamedUnitEntries :=
  fun _ hc => ⟨namedUnitEntry hc (n := .resetLfoShapeOrder) rfl, namedUnitEntry hc (n := .resetKeyRange) rfl⟩

/-- R160, R161: the entry of a named variant with an LFO index and a value of another domain. -/
theorem namedLfoEntry {c : Config} (hc : c.Admissible) {n : VariantName} {d : Domain}
    (hn : n.namedShape = some (.pair .lfoIndex d)) :
    ∃ o, c.opcodeOf n = some o ∧ (∃ e, c.slotAt o = some e ∧ e.shape = .pair .lfoIndex d) ∧
      (∀ (b1 b2 : Byte) f rest, b1.toNat ≤ 4 → d.decodeByte b2 = some f → decode c .entry (o :: b1 :: b2 :: rest) =
        .ok (ParameterValue.toInstr ⟨n, .pair (.lfoIndex (b1.toNat + 1)) f⟩)) ∧
      (∀ (b1 : Byte) rest, 5 ≤ b1.toNat → decode c .entry (o :: b1 :: rest) = .error .invalidEnumValue) ∧
      (∀ (b1 b2 : Byte) rest, b1.toNat ≤ 4 → d.lastByte + 1 ≤ b2.toNat →
        decode c .entry (o :: b1 :: b2 :: rest) = .error .invalidEnumValue) ∧
      (∀ b1 : Byte, b1.toNat ≤ 4 → decode c .entry [o, b1] = .error .truncatedInput) ∧
      decode c .entry [o] = .error .truncatedInput ∧
      ∀ f1 f2 : FieldValue, encodeParameter c ⟨n, .pair f1 f2⟩ = [o, f1.encode, f2.encode] := by
  obtain ⟨o, e, hop, he, rfl, hs⟩ := Config.slot_of_namedShape hc hn
  obtain ⟨htruncated, hread⟩ := readParameter_pairSlot he hs
  have hindex : ∀ b1 : Byte, b1.toNat ≤ 4 → Domain.lfoIndex.decodeByte b1 = some (.lfoIndex (b1.toNat + 1)) :=
    fun b1 hb1 => (Domain.decodeByte_lfoIndex b1).trans (if_pos hb1)
  refine ⟨o, hop, ⟨e, he, hs⟩, fun b1 b2 f rest hb1 hf => ?value, fun b1 rest hb1 => ?badIndex,
    fun b1 b2 rest hb1 hb2 => ?badValue, fun b1 hb1 => ?noValue, decode_entry_error htruncated,
    fun _ _ => encodeParameter_opcode hop⟩
  case value => exact decode_entry_value ((((hread b1).2 _ (hindex b1 hb1)).2 b2 rest).2 f hf)
  case badIndex => exact decode_entry_error ((hread b1).1 (Domain.decodeByte_eq_none hb1) rest)
  case badValue =>
    exact decode_entry_error ((((hread b1).2 _ (hindex b1 hb1)).2 b2 rest).1 (Domain.decodeByte_eq_none hb2))
  case noValue => exact decode_entry_error ((hread b1).2 _ (hindex b1 hb1)).1

/-- Settles O13: a named LFO entry, whose value byte is read back as the shape it encodes. -/
theorem lfoShapeAtIndexEntry : Obligations.LfoShapeAtIndexEntry := by
  intro c hc
  obtain ⟨o, hop, hslot, hvalue, hbadIndex, hbadValue, hnoValue, htruncated, hbytes⟩ :=
    namedLfoEntry hc (n := .lfoShapeAtIndex) rfl
  exact ⟨o, hop, hslot,
    fun b1 sh rest hb1 => hvalue b1 sh.encode (.lfoShape sh) rest hb1 (FieldValue.decode_encode (f := .lfoShape sh) rfl),
    hbadIndex, hbadValue, hnoValue, htruncated, fun n sh => hbytes (.lfoIndex n) (.lfoShape sh)⟩

/-- Settles O14: a named LFO entry, whose value byte is read as its multiple of 45 degrees. -/
theorem lfoPhaseAtIndexEntry : Obligations.LfoPhaseAtIndexEntry := by
  intro c hc
  obtain ⟨o, hop, hslot, hvalue, hbadIndex, hbadValue, hnoValue, htruncated, hbytes⟩ :=
    namedLfoEntry hc (n := .lfoPhaseAtIndex) rfl
  exact ⟨o, hop, hslot,
    fun b1 b2 rest hb1 hb2 => hvalue b1 b2 _ rest hb1 ((Domain.decodeByte_lfoPhaseOffset b2).trans (if_pos hb2)),
    hbadIndex, hbadValue, hnoValue, htruncated, fun n d => hbytes (.lfoIndex n) (.lfoPhaseOffset d)⟩

end Sys2Proof
end

section
/-! SUPPORT. An entry instruction in each unit: in the decoder the captures it leaves (R152), in the encoder the bytes
that stand in `OUT` (R156). -/

namespace Sys2Proof.Machine

/-- A well-formed entry instruction carries a value of type ParameterValue. -/
theorem parameter_wf_of_instr {i : Instr} {pv : ParameterValue} {c : Config} (h : i.parameter? = some pv)
    (hw : i.wf c = true) : pv.wf c = true := by
  cases i <;> cases h
  case catEntry => exact (Bool.and_eq_true_iff.1 hw).2
  all_goals exact hw

section
variable {s : State} {pv : ParameterValue}

/-- R152: in a decoder that expects an opcode, the entry is taken and the terminator expected. -/
theorem runEntry_decoder (hw : pv.wf s.cfg = true) (hturn : s.turn = .decoder) (hb : s.dstatus = .busy)
    (hph : s.phase = .pop) : runEntry pv s = .next ((s.takeEntry pv).goto .term) := by
  simp only [runEntry, hw, hturn, hb, hph, and_self, if_true]

/-- R156: in an encoder with room in `OUT`, the bytes of the entry are stored at the output index. -/
theorem runEntry_encoder (hw : pv.wf s.cfg = true) (hturn : s.turn = .encoder) (hb : s.estatus = .busy)
    (hfit : s.eidx + pv.payload.entryLength ≤ s.cfg.maxFrameLen) :
    runEntry pv s = .next { s with
      outBuf := s.outBuf.writeAll s.eidx (encodeParameter s.cfg pv), eidx := s.eidx + pv.payload.entryLength } := by
  have hrun : runEntry pv s = emitBytes (encodeParameter s.cfg pv) s := by
    simp only [runEntry, hw, hturn, hb, if_true]
  rw [← encodeParameter_length hw] at hfit ⊢
  exact hrun.trans (emitBytes_next.2 ⟨hfit, rfl⟩)

/-- R29, R152: the fields the shape has are captured, the others stay as they were. -/
theorem State.takeEntry_fields :
    (pv.payload = .unit → (s.takeEntry pv).fv1 = s.fv1 ∧ (s.takeEntry pv).fv2 = s.fv2) ∧
    (∀ f, pv.payload = .one f → (s.takeEntry pv).fv1 = some f ∧ (s.takeEntry pv).fv2 = s.fv2) ∧
    (∀ f1 f2, pv.payload = .pair f1 f2 → (s.takeEntry pv).fv1 = some f1 ∧ (s.takeEntry pv).fv2 = some f2) := by
  rw [State.takeEntry_eq]
  refine ⟨fun h => ?_, fun f h => ?_, fun f1 f2 h => ?_⟩ <;> simp only [h, and_self]

end

/-- Settles O55: the entry of each row runs as its parameter value, which has a slot, and taking it writes the
decoder's registers only. -/
theorem entryDecodeCompletes : Obligations.EntryDecodeCompletes := by
  intro s i pv hi hw hturn hb hph
  have hpv := parameter_wf_of_instr hi hw
  obtain ⟨e, -, -, hop, -⟩ := ParameterValue.wf_slot hpv
  obtain ⟨hunit, hone, hpair⟩ := State.takeEntry_fields (s := s) (pv := pv)
  refine ⟨(s.takeEntry pv).goto .term, ?_, rfl, by simpa using hb, by simp, by simp, by simp [hop], hunit, hone, hpair,
    ?_⟩
  · rw [exec_parameter hi, runEntry_decoder hpv hturn hb hph]
  · simp [State.KeepsOutsideDecoder]

/-! ## What stands in a buffer after a run of writes -/

/-- R41: a run of bytes stands where it was written. -/
theorem Memory.writeAll_holds {m : Memory} (h : Memory.wf m) (a : Nat) (bs : List Byte) :
    Memory.Holds (m.writeAll a bs) a bs := by
  intro k hk
  rw [Memory.read_writeAll bs m a _ h, if_pos (by omega), Nat.add_sub_cancel_left]

/-- R41: a run of writes leaves every other byte as it was. -/
theorem Memory.writeAll_sameOutside {m : Memory} (h : Memory.wf m) (a : Nat) (bs : List Byte) :
    Memory.SameOutside m (m.writeAll a bs) a bs.length := by
  intro x hx
  rw [Memory.read_writeAll bs m a x h, if_neg hx]

/-- Settles O56: the entry of each row runs as its parameter value, and a run of writes stands in `OUT` and leaves the
rest of it alone. -/
theorem entryEncodeCompletes : Obligations.EntryEncodeCompletes := by
  intro s i pv hi hw hturn hb hout hfit
  have hpv := parameter_wf_of_instr hi hw
  have hlen := encodeParameter_length hpv
  refine ⟨_, (exec_parameter hi s).trans (runEntry_encoder hpv hturn hb hfit), hb, rfl, rfl,
    Memory.writeAll_holds hout _ _, hlen, hlen ▸ Memory.writeAll_sameOutside hout _ _, ?_⟩
  simp [State.KeepsOutsideEncoder]

end Sys2Proof.Machine
end

section
/-! SUPPORT. The envelope reader by reader (R181 to R192): the header and the address byte, the tests at the terminator,
version strings, and the five kinds of frame both ways. -/

namespace Sys2Proof

/-! ## The header (R182) -/

/-- R182: literal bytes that stand as they should are consumed. -/
theorem expectAll_append (cs ds bs : List Byte) : expectAll (cs ++ ds) (cs ++ bs) = expectAll ds bs := by
  induction cs with
  | nil => rfl
  | cons c cs ih => simp [expectAll, expect, ih]

/-- R182: a literal byte that differs from the byte read. -/
theorem expectAll_mismatch {c v : Byte} (h : v ≠ c) (cs rest : List Byte) :
    expectAll (c :: cs) (v :: rest) = .error .structuralMismatch := by
  simp [expectAll, expect, h]

/-- R182: the literal bytes fail in no other way than by a mismatch or by the end of the frame. -/
theorem expectAll_error {cs bs : List Byte} {e : ErrorKind} (h : expectAll cs bs = .error e) :
    e = .structuralMismatch ∨ e = .truncatedInput := by
  induction cs generalizing bs with
  | nil => cases h
  | cons c cs ih =>
    cases bs with
    | nil => exact .inr (Except.error.inj h).symm
    | cons v bs =>
      by_cases hv : v = c
      · subst hv
        exact ih ((expectAll_append [v] cs bs).symm.trans h)
      · exact .inl (Except.error.inj ((expectAll_mismatch hv cs bs).symm.trans h)).symm

/-- R193: a failure of the header check fails the frame. -/
theorem decodeMessage_headerError {bs : List Byte} {e : ErrorKind} (h : expectHeader bs = .error e) (c : Config) :
    decodeMessage c bs = .error e := by
  rw [decodeMessage, h]
  rfl

/-- R182: after the first `k` header bytes the others are checked. -/
theorem expectHeader_take (k : Nat) (bs : List Byte) :
    expectHeader (header.take k ++ bs) = expectAll (header.drop k) bs := by
  have happend := expectAll_append (header.take k) (header.drop k) bs
  rwa [List.take_append_drop] at happend

/-- Settles O15: behind `k` correct bytes the check goes on with the header's byte `k`. -/
theorem headerIsCheckedInOrder : Obligations.HeaderIsCheckedInOrder := by
  refine ⟨rfl, fun rest => expectHeader_ok.2 rfl, fun c k hk => ?_⟩
  have hlt : k < header.length := hk
  have hnext : header.drop k = header[k] :: header.drop (k + 1) := List.drop_eq_getElem_cons hlt
  refine ⟨decodeMessage_headerError ?_ c, fun v rest hv => decodeMessage_headerError ?_ c⟩
  · rw [← List.append_nil (header.take k), expectHeader_take, hnext]
    rfl
  · rw [expectHeader_take, hnext]
    refine expectAll_mismatch (fun he => hv ?_) _ rest
    rw [he, List.getElem?_eq_getElem hlt]

/-! ## The address (R183, R184) -/

/-- R183: the bytes that are no address. -/
theorem addressDecodeByte_eq_none {v : Byte} (h : 0x10 ≤ v.toNat) (hv : v ≠ bcast) : addressDecodeByte v = none := by
  rw [addressDecodeByte, if_neg (by omega), if_neg hv]

/-- R183, R193: behind the header, a byte that is no address fails the frame. -/
theorem decodeMessage_address_invalid {v : Byte} (h : addressDecodeByte v = none) (c : Config) (rest : List Byte) :
    readAddress (v :: rest) = .error .invalidEnumValue ∧
      decodeMessage c (header ++ v :: rest) = .error .invalidEnumValue := by
  have hread : readAddress (v :: rest) = .error .invalidEnumValue := by rw [readAddress, h]
  have hheader : expectHeader (header ++ v :: rest) = .ok (v :: rest) := expectHeader_ok.2 rfl
  exact ⟨hread, by simp [decodeMessage, hheader, hread]⟩

/-- Settles O16: the decode of the address byte by its ranges, and the byte of each address. -/
theorem deviceAddressByte : Obligations.DeviceAddressByte := by
  refine ⟨fun c => rfl, fun v rest hv => readAddress_ok.2 ⟨v, rfl, if_pos hv⟩, fun rest =>
    readAddress_ok.2 ⟨_, rfl, rfl⟩, fun c v rest hlo hne => ?_, fun n hlo hhi => byte_ofNat_toNat (by omega), rfl⟩
  exact decodeMessage_address_invalid (addressDecodeByte_eq_none hlo hne) c rest

/-! ## The kind (R185) -/

/-- R193: a frame that ends behind the address. -/
theorem decodeMessage_noKind {v : Byte} {a : DeviceAddress} (ha : addressDecodeByte v = some a) (c : Config) :
    decodeMessage c (header ++ [v]) = .error .truncatedInput := by
  have hheader : expectHeader (header ++ [v]) = .ok [v] := expectHeader_ok.2 rfl
  have haddr : readAddress [v] = .ok (a, []) := readAddress_ok.2 ⟨v, rfl, ha⟩
  simp [decodeMessage, hheader, haddr, readByte]

/-- Settles O17: the dispatch has an arm for each of the five kinds and for no other byte. -/
theorem kindDispatch : Obligations.KindDispatch := by
  refine fun c v k a rest ha => ⟨decodeMessage_noKind ha c, fun hk => ?_, fun m hm => ?_⟩
  · rw [decodeMessage_header ha, decodeKind_unknown hk]
  · rw [decodeMessage_header ha] at hm
    rcases decodeKind_ok hm with ⟨pv, hk, -, rfl⟩ | ⟨hk, -, rfl⟩ | ⟨hk, -, rfl⟩ | ⟨s, hk, -, -, rfl⟩ |
      ⟨pv, r, hk, -, -, rfl⟩
    · exact .inl ⟨hk, pv, rfl⟩
    · exact .inr (.inl ⟨hk, rfl⟩)
    · exact .inr (.inr (.inl ⟨hk, rfl⟩))
    · exact .inr (.inr (.inr (.inl ⟨hk, s, rfl⟩)))
    · exact .inr (.inr (.inr (.inr ⟨hk, pv, rfl⟩)))

/-! ## The terminator (R187) -/

/-- R187: the three tests at the terminator in their order, for a decode that has only the terminator left to check. -/
theorem expectEnd_tests {d : Except ErrorKind Message} {m : Message} {rest : List Byte}
    (h : d = (do expectEnd rest; .ok m)) :
    (rest = [] → d = .error .truncatedInput) ∧
    (∀ v w r, rest = v :: w :: r → d = .error .trailingBytes) ∧
    (∀ v, rest = [v] → v ≠ 0xF7#8 → d = .error .structuralMismatch) ∧
    (rest = [0xF7#8] → d = .ok m) := by
  subst h
  refine ⟨?_, ?_, ?_, ?_⟩
  · rintro rfl
    rfl
  · rintro v w r rfl
    rfl
  · rintro v rfl hv
    simp [expectEnd, hv]
  · rintro rfl
    rfl

/-! ## Frames with a catalogue entry (R188, R192) -/

section
variable {c : Config} {a : DeviceAddress} {bs : List Byte}

theorem decodeKind_set_error {e : ErrorKind} (h : readParameter c bs = .error e) :
    decodeKind c a kSet bs = .error e := by
  rw [decodeKind_set, h]
  rfl

/-- R188: behind its entry a SetParameter frame has only the terminator left. -/
theorem decodeKind_set_entry {pv : ParameterValue} {rest : List Byte} (h : readParameter c bs = .ok (pv, rest)) :
    decodeKind c a kSet bs = (do expectEnd rest; .ok (.setParameter a pv)) := by
  rw [decodeKind_set, h]
  rfl

/-- R192: behind the version byte the entry is read. -/
theorem decodeKind_update_version :
    decodeKind c a kUpdate (version :: bs) = (do
      let (pv, rest) ← readParameter c bs
      expectEnd rest
      .ok (.parameterUpdate a pv)) := by
  have hversion : expectVersion (version :: bs) = .ok bs := expect_ok.2 rfl
  rw [decodeKind_update, hversion, except_ok_bind]

theorem decodeKind_update_error {e : ErrorKind} (h : readParameter c bs = .error e) :
    decodeKind c a kUpdate (version :: bs) = .error e := by
  rw [decodeKind_update_version, h]
  rfl

/-- R192: behind its entry a ParameterUpdate frame has only the terminator left. -/
theorem decodeKind_update_entry {pv : ParameterValue} {rest : List Byte} (h : readParameter c bs = .ok (pv, rest)) :
    decodeKind c a kUpdate (version :: bs) = (do expectEnd rest; .ok (.parameterUpdate a pv)) := by
  rw [decodeKind_update_version, h]
  rfl

/-- R186: any other byte in the version byte's place. -/
theorem expectVersion_mismatch {v : Byte} (h : v ≠ version) (bs : List Byte) :
    expectVersion (v :: bs) = .error .structuralMismatch := by
  simp [expectVersion, expect, h]

end

/-- Settles O19: the kind's arm reads the entry and then tests the terminator. -/
theorem setParameterFrames : Obligations.SetParameterFrames := by
  refine fun c v a tail ha => ⟨fun e he => ?_, fun pv rest hr => expectEnd_tests ?_, fun pv => rfl⟩
  · rw [decodeMessage_header ha, decodeKind_set_error he]
  · rw [decodeMessage_header ha, decodeKind_set_entry hr]

/-- Settles O22: the kind's arm reads the version byte and the entry and then tests the terminator. -/
theorem parameterUpdateFrames : Obligations.ParameterUpdateFrames := by
  refine fun c v a tail ha => ⟨?_, fun w hw => ?_, fun e he => ?_, fun pv rest hr => expectEnd_tests ?_,
    fun pv => rfl⟩ <;>
    rw [decodeMessage_header ha]
  · rfl
  · rw [decodeKind_update, expectVersion_mismatch hw]
    rfl
  · rw [decodeKind_update_error he]
  · rw [decodeKind_update_entry hr]

/-! ## Frames without a payload (R189, R190) -/

/-- Settles O20: either kind's arm only tests the terminator. -/
theorem payloadlessFrames : Obligations.PayloadlessFrames := by
  intro c v k a m ha hk
  have hdecode : ∀ bs, decodeMessage c (header ++ v :: k :: bs) = (do expectEnd bs; .ok m) := by
    intro bs
    rw [decodeMessage_header ha]
    rcases hk with ⟨rfl, rfl⟩ | ⟨rfl, rfl⟩ <;> rfl
  refine ⟨hdecode _, hdecode _, fun _ _ _ => hdecode _, fun w hw => ?_, ?_⟩
  · obtain ⟨-, -, hmismatch, -⟩ := expectEnd_tests (hdecode [w])
    exact hmismatch w rfl hw
  · rcases hk with ⟨rfl, rfl⟩ | ⟨rfl, rfl⟩ <;> rfl

/-! ## Version strings (R191) -/

/-- R191: a string byte is read and the string goes on. -/
theorem readVersionString_cons {v : Byte} (hv : v.toNat < 0x80) (bs : List Byte) :
    readVersionString (v :: bs) = (readVersionString bs).map (v :: ·) := by
  have hne : v ≠ eox := by
    rintro rfl
    exact absurd hv (by decide)
  rw [readVersionString.eq_def]
  simp only [if_neg hne, if_neg (Nat.not_le.2 hv)]
  cases readVersionString bs <;> rfl

/-- R191: the bytes of a string are read one by one, whatever follows them. -/
theorem readVersionString_append {s : List Byte} (hs : ∀ b ∈ s, b.toNat < 0x80) (bs : List Byte) :
    readVersionString (s ++ bs) = (readVersionString bs).map (s ++ ·) := by
  induction s with
  | nil => cases h : readVersionString bs <;> simp [h, Except.map]
  | cons v s ih =>
    rw [List.cons_append, readVersionString_cons (hs v (by simp)), ih fun b hb => hs b (by simp [hb])]
    cases readVersionString bs <;> rfl

/-- R191: a byte from 0x80 on that is not the terminator is no string byte. -/
theorem readVersionString_invalid {v : Byte} (h : 0x80 ≤ v.toNat) (hne : v ≠ eox) (bs : List Byte) :
    readVersionString (v :: bs) = .error .invalidEnumValue := by
  rw [readVersionString.eq_def]
  simp only [if_neg hne, if_pos h]

/-- R191: behind the version byte and string bytes, the frame is what the string's reader makes of the rest. -/
theorem decodeKind_reportVersion_string {s : List Byte} (hs : ∀ b ∈ s, b.toNat < 0x80) (c : Config) (a : DeviceAddress)
    (bs : List Byte) : decodeKind c a kRepVer (version :: (s ++ bs)) =
      (readVersionString bs).map fun t => .reportVersion a (s ++ t) := by
  have hversion : expectVersion (version :: (s ++ bs)) = .ok (s ++ bs) := expect_ok.2 rfl
  rw [decodeKind_reportVersion, hversion, except_ok_bind, readVersionString_append hs]
  cases readVersionString bs <;> rfl

/-- Settles O21: the string's reader goes through the string and decides by what stands behind it. -/
theorem reportVersionFrames : Obligations.ReportVersionFrames := by
  intro c v a s ha hs
  have hdecode : ∀ bs, decodeMessage c (header ++ v :: 0x74#8 :: 0x01#8 :: (s ++ bs)) =
      (readVersionString bs).map fun t => .reportVersion a (s ++ t) := by
    intro bs
    rw [decodeMessage_header ha, decodeKind_reportVersion_string hs]
  refine ⟨(hdecode [eox]).trans ?string, ?truncated, fun w rest => hdecode (eox :: w :: rest),
    fun w rest hw hne => (hdecode (w :: rest)).trans ?invalid, fun w rest hw => ?version, ?noVersion, rfl⟩
  case string => exact congrArg (fun t => Except.ok (Message.reportVersion a t)) (List.append_nil s)
  case truncated =>
    have hend := hdecode []
    rw [List.append_nil] at hend
    exact hend
  case invalid =>
    rw [readVersionString_invalid hw hne]
    rfl
  case version =>
    rw [decodeMessage_header ha, decodeKind_reportVersion, expectVersion_mismatch hw]
    rfl
  case noVersion =>
    rw [decodeMessage_header ha]
    rfl

end Sys2Proof
end

section
/-! SUPPORT. Frames and their messages (R164, R194, R197): a message reads back from its frame, a frame that decodes is
its message's frame but for a placeholder, and the bytes of an emitted frame. -/

namespace Sys2Proof

/-! ## A message reads back from its frame -/

/-- R26: what a well-formed message says of its parts. -/
theorem Message.wf_entry {c : Config} {m : Message} {n : Nat} {pv : ParameterValue} (h : m.wf c = true)
    (he : m.entry? = some (n, pv)) : pv.wf c = true := by
  cases m <;> cases he <;> exact (Bool.and_eq_true_iff.1 h).2

/-- R26: a version string of the type has 7-bit bytes and leaves room for the rest of its frame. -/
theorem versionStringWf_iff {c : Config} {s : List Byte} :
    versionStringWf c s = true ↔ (∀ b ∈ s, b.toNat < 0x80) ∧ s.length + 9 ≤ c.maxFrameLen := by
  simp [versionStringWf]

theorem decodeKind_reportVersion_ok {s : List Byte} (hs : ∀ b ∈ s, b.toNat < 0x80) (c : Config) (a : DeviceAddress) :
    decodeKind c a kRepVer (version :: (s ++ [eox])) = .ok (.reportVersion a s) := by
  rw [decodeKind_reportVersion_string hs]
  exact congrArg (fun t => Except.ok (Message.reportVersion a t)) (List.append_nil s)

/-- R197 item 1: a message reads back from its frame. -/
theorem decodeMessage_encodeMessage {c : Config} {m : Message} (hc : c.Admissible) (hw : m.wf c = true) :
    decodeMessage c (encodeMessage c m) = .ok m := by
  have hframe := fun k rest => decodeMessage_header (DeviceAddress.decode_encode (Message.wf_address hw)) c k rest
  cases m with
  | setParameter a pv =>
    exact (hframe kSet _).trans (decodeKind_set_ok (readParameter_encodeParameter hc (Message.wf_entry hw rfl) [eox]))
  | restoreParameter a => exact hframe kRestore [eox]
  | requestVersion a => exact hframe kReqVer [eox]
  | reportVersion a s =>
    have hs := (versionStringWf_iff.1 (Bool.and_eq_true_iff.1 hw).2).1
    exact (hframe kRepVer _).trans (decodeKind_reportVersion_ok hs c a)
  | parameterUpdate a pv =>
    exact (hframe kUpdate _).trans
      (decodeKind_update_ok (readParameter_encodeParameter hc (Message.wf_entry hw rfl) [eox]))

/-! ## A frame that decodes is its message's frame -/

/-- R183, R184: a byte that reads as an address is that address's byte. -/
theorem DeviceAddress.encode_of_decodeByte {v : Byte} {a : DeviceAddress} (h : addressDecodeByte v = some a) :
    a.encode = v := by
  simp only [addressDecodeByte] at h
  split at h
  · cases h
    rw [DeviceAddress.encode, Nat.add_sub_cancel, BitVec.ofNat_toNat, BitVec.setWidth_eq]
  · split at h
    · rename_i hv
      cases h
      exact hv.symm
    · cases h

/-- R114, R156: the bytes of a payload read are the payload's bytes, but for a placeholder, which may be any byte. -/
theorem readPayload_bytes {sh : Shape} {bs rest : List Byte} {p : Payload} (h : readPayload sh bs = .ok (p, rest)) :
    bs = p.encode ++ rest ∨ p = .unit ∧ ∃ x, bs = x :: rest := by
  cases sh with
  | unit =>
    simp only [readPayload, except_bind_ok, readPlaceholder_ok, Except.ok.injEq, Prod.mk.injEq] at h
    obtain ⟨r, ⟨x, rfl⟩, rfl, rfl⟩ := h
    exact .inr ⟨rfl, x, rfl⟩
  | one d =>
    simp only [readPayload, except_bind_ok, Prod.exists, readField_ok, Except.ok.injEq, Prod.mk.injEq] at h
    obtain ⟨f, r, ⟨v, rfl, hv⟩, rfl, rfl⟩ := h
    exact .inl (by rw [Payload.encode, Domain.encode_of_decodeByte hv]; rfl)
  | pair d1 d2 =>
    simp only [readPayload, except_bind_ok, Prod.exists, readField_ok, Except.ok.injEq, Prod.mk.injEq] at h
    obtain ⟨f1, r1, ⟨v1, rfl, hv1⟩, f2, r2, ⟨v2, rfl, hv2⟩, rfl, rfl⟩ := h
    exact .inl (by rw [Payload.encode, Domain.encode_of_decodeByte hv1, Domain.encode_of_decodeByte hv2]; rfl)

/-- R152, R156: the bytes of an entry read are the entry's bytes, but for the placeholder of a unit entry. -/
theorem readParameter_bytes {c : Config} {bs rest : List Byte} {pv : ParameterValue} (hc : c.Admissible)
    (h : readParameter c bs = .ok (pv, rest)) :
    bs = encodeParameter c pv ++ rest ∨
      pv.payload = .unit ∧ ∃ op x, bs = op :: x :: rest ∧ encodeParameter c pv = [op, 0x00#8] := by
  obtain ⟨op, e, r, rfl, he, hp, hname⟩ := readParameter_ok h
  have hop : c.opcodeOf pv.name = some op := hname ▸ (Config.opcodeOf_of_slotAt hc he).1
  rw [encodeParameter_opcode hop]
  rcases readPayload_bytes hp with rfl | ⟨hunit, x, rfl⟩
  · exact .inl rfl
  · exact .inr ⟨hunit, op, x, rfl, by rw [hunit]; rfl⟩

/-- R197 item 2: a frame that decodes is its message's frame but for the placeholder of a unit entry, which may be any
byte where the encoder writes 0x00. -/
theorem decodeMessage_bytes {c : Config} {bs : List Byte} {m : Message} (hc : c.Admissible)
    (h : decodeMessage c bs = .ok m) :
    encodeMessage c m = bs ∨
      ∃ n pv x, m.entry? = some (n, pv) ∧ pv.payload = .unit ∧ bs[n + 1]? = some x ∧
        encodeMessage c m = bs.set (n + 1) 0x00#8 := by
  obtain ⟨v, k, r, a, rfl, ha, hk⟩ := decodeMessage_ok h
  obtain rfl := DeviceAddress.encode_of_decodeByte ha
  rcases decodeKind_ok hk with ⟨pv, rfl, hr, rfl⟩ | ⟨rfl, rfl, rfl⟩ | ⟨rfl, rfl, rfl⟩ | ⟨s, rfl, rfl, -, rfl⟩ |
    ⟨pv, r', rfl, rfl, hr, rfl⟩
  · rcases readParameter_bytes hc hr with rfl | ⟨hunit, op, x, rfl, hbytes⟩
    · exact .inl rfl
    · exact .inr ⟨7, pv, x, rfl, hunit, rfl, by rw [encodeMessage, encodeBody, hbytes]; rfl⟩
  · exact .inl rfl
  · exact .inl rfl
  · exact .inl rfl
  · rcases readParameter_bytes hc hr with rfl | ⟨hunit, op, x, rfl, hbytes⟩
    · exact .inl rfl
    · exact .inr ⟨8, pv, x, rfl, hunit, rfl, by rw [encodeMessage, encodeBody, hbytes]; rfl⟩

/-- R197 item 4: a frame that does not begin with the header fails by it. -/
theorem decodeMessage_noHeader {bs : List Byte} (h : ¬header <+: bs) (c : Config) :
    decodeMessage c bs = .error .structuralMismatch ∨ decodeMessage c bs = .error .truncatedInput := by
  cases hheader : expectHeader bs with
  | ok rest => exact absurd ⟨rest, (expectHeader_ok.1 hheader).symm⟩ h
  | error e =>
    rw [decodeMessage_headerError hheader]
    exact (expectAll_error hheader).imp (congrArg Except.error) (congrArg Except.error)

/-- Settles O27: the round trip, the frame of a decoded message, and what the address byte and the header reject. -/
theorem envelopeLaws : Obligations.EnvelopeLaws := by
  refine fun c hc => ⟨fun m => decodeMessage_encodeMessage hc, fun bs m => decodeMessage_bytes hc,
    fun v rest hlo hhi => ?_, fun bs h => decodeMessage_noHeader h c⟩
  have hne : v ≠ bcast := by
    rintro rfl
    exact absurd hhi (by decide)
  exact (decodeMessage_address_invalid (addressDecodeByte_eq_none hlo hne) c rest).2

/-! ## An instruction reads back from its bytes -/

/-- R81: every instruction stands for exactly one term of the spec. -/
theorem Laws.OneTerm.statement (i : Instr) : Laws.OneTerm.Statement i := by
  cases i with
  | setParameter a pv => exact setParameter a pv
  | restoreParameter a => exact restoreParameter a
  | requestVersion a => exact requestVersion a
  | reportVersion a v => exact reportVersion a v
  | parameterUpdate a pv => exact parameterUpdate a pv
  | paraphonicMode t => exact paraphonicMode t
  | resetLfoShapeOrder => exact resetLfoShapeOrder
  | resetKeyRange => exact resetKeyRange
  | lfoShapeAtIndex n sh => exact lfoShapeAtIndex n sh
  | lfoPhaseAtIndex n d => exact lfoPhaseAtIndex n d
  | catEntry name p => exact catEntry name p

theorem encode_message {i : Instr} {m : Message} (h : i.message? = some m) (c : Config) :
    encode c i = encodeMessage c m := by
  rw [encode, h]

theorem encode_parameter {i : Instr} {pv : ParameterValue} (hm : i.message? = none) (h : i.parameter? = some pv)
    (c : Config) : encode c i = encodeParameter c pv := by
  rw [encode, hm, h]

/-- Settles O28: an instruction is the frame of its message or the entry of its parameter value, each of which reads
back from its bytes. -/
theorem decodeInvertsEncode : Obligations.DecodeInvertsEncode := by
  intro c i hc hi
  rcases Laws.OneTerm.statement i c hi with ⟨m, hm, -, htoInstr, hw, hfetch⟩ | ⟨pv, hpv, hm, htoInstr, hw, hfetch⟩
  · rw [hfetch, encode_message hm, decode, decodeMessage_encodeMessage hc hw, ← htoInstr]
    rfl
  · have hread := readParameter_encodeParameter hc hw []
    rw [List.append_nil] at hread
    rw [hfetch, encode_parameter hm hpv, decode_entry_value hread, htoInstr]

/-! ## The bytes of an emitted frame (R194) -/

theorem Payload.entryLength_le (p : Payload) : p.entryLength ≤ 3 := by
  cases p <;> simp [Payload.entryLength]

/-- R5, R26: the frame of a message fits the buffer. -/
theorem Message.frameLength_le {c : Config} {m : Message} (hc : c.Admissible) (h : m.wf c = true) :
    m.frameLength ≤ c.maxFrameLen := by
  obtain ⟨hroom, -⟩ := hc
  cases m with
  | setParameter a pv =>
    have := pv.payload.entryLength_le
    simp only [Message.frameLength]
    omega
  | restoreParameter a | requestVersion a =>
    simp only [Message.frameLength]
    omega
  | reportVersion a s =>
    obtain ⟨-, hfit⟩ := versionStringWf_iff.1 (Bool.and_eq_true_iff.1 h).2
    simp only [Message.frameLength]
    omega
  | parameterUpdate a pv =>
    have := pv.payload.entryLength_le
    simp only [Message.frameLength]
    omega

/-- R194: between the address byte and the terminator every byte is below 0x80. -/
theorem encodeBody_lt {c : Config} {m : Message} (hc : c.Admissible) (h : m.wf c = true) :
    ∀ b ∈ encodeBody c m, b.toNat < 0x80 := by
  have hentry := fun {n pv} (he : m.entry? = some (n, pv)) => encodeParameter_lt hc (Message.wf_entry h he)
  cases m with
  | setParameter a pv => simpa [encodeBody] using hentry rfl
  | restoreParameter a => simp [encodeBody]
  | requestVersion a => simp [encodeBody]
  | reportVersion a s => simpa [encodeBody] using (versionStringWf_iff.1 (Bool.and_eq_true_iff.1 h).2).1
  | parameterUpdate a pv => simpa [encodeBody] using hentry rfl

/-- Settles O25: the length by R66, the interior byte by byte: the header's, the address's and the body's. -/
theorem emittedFrameBytes : Obligations.EmittedFrameBytes := by
  refine fun c m hc hw => ⟨(encodeMessage_length hw).trans_le (Message.frameLength_le hc hw),
    [mfr0, mfr1, mfr2, devKind] ++ m.address.encode :: encodeBody c m, rfl, fun b hb => ?_⟩
  have hhead : ∀ b ∈ [mfr0, mfr1, mfr2, devKind], b.toNat < 0x80 := by decide
  rcases List.mem_append.1 hb with hb | hb
  · exact hhead b hb
  · rcases List.mem_cons.1 hb with rfl | hb
    · exact DeviceAddress.encode_lt (Message.wf_address hw)
    · exact encodeBody_lt hc hw b hb

end Sys2Proof
end

section
/-! SUPPORT. The rows of R196 against the decode function, for every table and every frame: what the function still has
to do in each phase, that a row does the next part of it, and so that the rows of an operation end with its result. -/

namespace Sys2Proof.Machine

/-! ## Bytes left -/

section
variable {s t u : State} {v : Byte} {rest : List Byte}

theorem State.cursor_of_remaining_nil (h : s.remaining = []) : s.cursor = none := by
  have hlen := congrArg List.length h
  rw [State.remaining_length, List.length_nil] at hlen
  exact (State.cursor_end (Nat.le_of_sub_eq_zero hlen)).1

theorem State.lt_of_remaining (h : s.remaining = v :: rest) : s.p < s.inLen :=
  State.cursor_some (State.cursor_of_remaining h).1

/-- The last byte of a frame stands just below `IN_LEN`. -/
theorem State.last_of_remaining (h : s.remaining = [v]) : s.p + 1 = s.inLen := by
  have hlen := congrArg List.length h
  rw [State.remaining_length, List.length_singleton] at hlen
  omega

theorem State.remaining_last (h : s.p + 1 = s.inLen) : s.remaining = [s.inByte s.p] := by
  obtain ⟨-, hrem⟩ := State.cursor_inside (s := s) (by omega)
  rw [hrem, h, Nat.sub_self]
  rfl

/-- At the start of an operation the whole frame remains. -/
theorem State.remaining_start (h : s.p = 0) : s.remaining = s.frame := by
  rw [State.remaining, h]
  rfl

theorem State.KeepsOutsideDecoder.trans (h : s.KeepsOutsideDecoder t) (h' : t.KeepsOutsideDecoder u) :
    s.KeepsOutsideDecoder u := by
  simp only [State.KeepsOutsideDecoder] at h h' ⊢
  simp only [h', h, and_self]

/-! ## Rows that fail -/

/-- R196: in every phase of an operation, a row with no byte left fails TruncatedInput. -/
theorem row_truncated (hph : s.phase ≠ .done) (hr : s.remaining = []) : row s = .next (s.raise .truncatedInput) := by
  have hcur := State.cursor_of_remaining_nil hr
  cases hp : s.phase
  case done => exact absurd hp hph
  all_goals
    simp only [row, hp, rowHeader, rowAddr, rowKind, rowVer, rowPop, rowFld1, rowFld2, rowPlh, rowStr, rowTerm, hcur]

theorem rowHeader_mismatch {c : Byte} {nxt : Phase} (hr : s.remaining = v :: rest) (hv : v ≠ c) :
    rowHeader c nxt s = .next (s.raise .structuralMismatch) := by
  simp [rowHeader, (State.cursor_of_remaining hr).1, hv]

theorem row_addr_invalid (hph : s.phase = .addr) (hr : s.remaining = v :: rest) (ha : addressDecodeByte v = none) :
    row s = .next (s.raise .invalidEnumValue) := by
  simp [row, hph, rowAddr, (State.cursor_of_remaining hr).1, ha]

theorem row_kind_unknown (hph : s.phase = .kind) (hr : s.remaining = v :: rest) (hk : afterKind v = none) :
    row s = .next (s.raise .unknownOpcode) := by
  simp [row, hph, rowKind, (State.cursor_of_remaining hr).1, hk]

theorem row_ver_mismatch (hph : s.phase = .ver) (hr : s.remaining = v :: rest) (hv : v ≠ version) :
    row s = .next (s.raise .structuralMismatch) := by
  simp [row, hph, rowVer, (State.cursor_of_remaining hr).1, hv]

theorem row_pop_unknown (hph : s.phase = .pop) (hr : s.remaining = v :: rest) (he : s.cfg.slotAt v = none) :
    row s = .next (s.raise .unknownOpcode) := by
  simp [row, hph, rowPop, (State.cursor_of_remaining hr).1, he]

theorem row_fld1_invalid {e : Slot} {d : Domain} {nxt : Phase} (hph : s.phase = .fld1) (hr : s.remaining = v :: rest)
    (he : s.popSlot = some e) (hd : firstField e.shape = some (d, nxt)) (hf : d.decodeByte v = none) :
    row s = .next (s.raise .invalidEnumValue) := by
  simp [row, hph, rowFld1, (State.cursor_of_remaining hr).1, he, hd, hf]

theorem row_fld2_invalid {e : Slot} {d : Domain} (hph : s.phase = .fld2) (hr : s.remaining = v :: rest)
    (he : s.popSlot = some e) (hd : secondField e.shape = some d) (hf : d.decodeByte v = none) :
    row s = .next (s.raise .invalidEnumValue) := by
  simp [row, hph, rowFld2, (State.cursor_of_remaining hr).1, he, hd, hf]

theorem row_str_trailing (hph : s.phase = .str) (hr : s.remaining = eox :: rest) (hrest : rest ≠ []) :
    row s = .next (s.raise .trailingBytes) := by
  obtain ⟨hcur, hmore⟩ := State.cursor_of_remaining hr
  simp [row, hph, rowStr, hcur, hmore, hrest]

theorem row_str_invalid (hph : s.phase = .str) (hr : s.remaining = v :: rest) (hv : 0x80 ≤ v.toNat) (hne : v ≠ eox) :
    row s = .next (s.raise .invalidEnumValue) := by
  simp [row, hph, rowStr, (State.cursor_of_remaining hr).1, hne, hv]

theorem row_term_trailing (hph : s.phase = .term) (hr : s.remaining = v :: rest) (hrest : rest ≠ []) :
    row s = .next (s.raise .trailingBytes) := by
  obtain ⟨hcur, hmore⟩ := State.cursor_of_remaining hr
  simp [row, hph, rowTerm, hcur, hmore, hrest]

theorem row_term_mismatch (hph : s.phase = .term) (hr : s.remaining = [v]) (hv : v ≠ eox) :
    row s = .next (s.raise .structuralMismatch) := by
  obtain ⟨hcur, hmore⟩ := State.cursor_of_remaining hr
  simp [row, hph, rowTerm, hcur, hmore, hv]

end

/-- Settles O18: the rows of the phase TERM by how many bytes remain. -/
theorem terminatorTestsInOrder : Obligations.TerminatorTestsInOrder := by
  intro s hb hph
  rw [tickDecoder, if_pos hb]
  refine ⟨fun hend => ?_, fun hmore => ?_, fun hlast hv => ?_, fun m hlast hv hm => ⟨?_, hlast⟩⟩
  · exact row_truncated (by simp [hph]) (State.cursor_end hend).2
  · obtain ⟨-, hrem⟩ := State.cursor_inside (s := s) (by omega)
    exact row_term_trailing hph hrem ((State.cursor_of_remaining hrem).2.1 hmore)
  · exact row_term_mismatch hph (State.remaining_last hlast) hv
  · have hrem := State.remaining_last hlast
    rw [hv] at hrem
    exact row_term_ok hph hrem hm

/-! ## What the decode function has left to do -/

/-- R193: the decode from header bytes `cs` on. -/
def decodeFrom (c : Config) (cs bs : List Byte) : Except ErrorKind Message := do
  let bs1 ← expectAll cs bs
  let (a, bs2) ← readAddress bs1
  let (k, bs3) ← readByte bs2
  decodeKind c a k bs3

theorem decodeFrom_header (c : Config) (bs : List Byte) : decodeFrom c header bs = decodeMessage c bs := rfl

theorem decodeFrom_cons (c : Config) (v : Byte) (cs bs : List Byte) :
    decodeFrom c (v :: cs) (v :: bs) = decodeFrom c cs bs := by
  rw [decodeFrom, decodeFrom, ← expectAll_append [v] cs bs]
  rfl

/-- R187: the decode that has a part of an entry to read, then the terminator, and makes a message of what it read. -/
def readToEnd {α : Type} (read : Except ErrorKind (α × List Byte)) (make : α → Message) : Except ErrorKind Message := do
  let (x, rest) ← read
  expectEnd rest
  .ok (make x)

theorem readToEnd_map {α β : Type} (read : Except ErrorKind (α × List Byte)) (f : α → β) (make : β → Message) :
    readToEnd (read.map fun r => (f r.1, r.2)) make = readToEnd read fun x => make (f x) := by
  cases read <;> rfl

/-- R196: with the address and the kind captured, the message the captures will make of an entry's parameter value. -/
def State.Makes (s : State) (make : ParameterValue → Message) : Prop :=
  ∀ (t : State) (pv : ParameterValue), t.addr = s.addr → t.kind = s.kind → t.capturedParameter = some pv →
    t.capturedMessage = some (make pv)

/-- R193, R196: in the phase it is in, with the captures it has and the bytes that remain, the decode function has a
reading left whose result is `r`. -/
def State.DecodeLeft (s : State) (r : Except ErrorKind Message) : Prop :=
  match s.phase with
  | .h0 => s.vstr = [] ∧ r = decodeFrom s.cfg [sox, mfr0, mfr1, mfr2, devKind] s.remaining
  | .h1 => s.vstr = [] ∧ r = decodeFrom s.cfg [mfr0, mfr1, mfr2, devKind] s.remaining
  | .h2 => s.vstr = [] ∧ r = decodeFrom s.cfg [mfr1, mfr2, devKind] s.remaining
  | .h3 => s.vstr = [] ∧ r = decodeFrom s.cfg [mfr2, devKind] s.remaining
  | .h4 => s.vstr = [] ∧ r = decodeFrom s.cfg [devKind] s.remaining
  | .addr => s.vstr = [] ∧ r = decodeFrom s.cfg [] s.remaining
  | .kind =>
    s.vstr = [] ∧ ∃ a, s.addr = some a ∧ r = (do
      let (k, bs) ← readByte s.remaining
      decodeKind s.cfg a k bs)
  | .ver =>
    s.vstr = [] ∧ ∃ a k, s.addr = some a ∧ s.kind = some k ∧ (k = kRepVer ∨ k = kUpdate) ∧
      r = decodeKind s.cfg a k s.remaining
  | .pop => ∃ make, s.Makes make ∧ r = readToEnd (readParameter s.cfg s.remaining) make
  | .plh =>
    ∃ make e, s.Makes make ∧ s.popSlot = some e ∧ e.shape = .unit ∧
      r = readToEnd (readPayload e.shape s.remaining) fun p => make ⟨e.name, p⟩
  | .fld1 =>
    ∃ make e, s.Makes make ∧ s.popSlot = some e ∧ e.shape ≠ .unit ∧
      r = readToEnd (readPayload e.shape s.remaining) fun p => make ⟨e.name, p⟩
  | .fld2 =>
    ∃ make e d1 d2 f1, s.Makes make ∧ s.popSlot = some e ∧ e.shape = .pair d1 d2 ∧ s.fv1 = some f1 ∧
      r = readToEnd (readField d2 s.remaining) fun f2 => make ⟨e.name, .pair f1 f2⟩
  | .str =>
    ∃ a, s.addr = some a ∧ r = (readVersionString s.remaining).map fun bs => .reportVersion a (s.vstr ++ bs)
  | .term => ∃ m, s.capturedMessage = some m ∧ r = (do expectEnd s.remaining; .ok m)
  | .done => False

/-- R196: a row does the next part of a decode with result `r`: it fails as the decode does, accepts the decode's
message at the last byte of the frame, or consumes a byte and leaves the rest of the decode to do. -/
def State.Proceeds (s : State) (r : Except ErrorKind Message) : Prop :=
  (∃ e, row s = .next (s.raise e) ∧ r = .error e) ∨
  (∃ m, row s = .next (s.accept m) ∧ r = .ok m ∧ s.p + 1 = s.inLen) ∨
  (∃ t, row s = .next t ∧ s.p < s.inLen ∧ t.p = s.p + 1 ∧ t.dstatus = s.dstatus ∧ t.dmsg = s.dmsg ∧ t.derr = s.derr ∧
    t.DecodeLeft r)

section
variable {s : State} {r : Except ErrorKind Message} {v : Byte} {rest : List Byte}

theorem State.Makes.of_captures {t : State} {make : ParameterValue → Message} (h : s.Makes make)
    (ha : t.addr = s.addr) (hk : t.kind = s.kind) : t.Makes make :=
  fun u pv hua huk hpv => h u pv (hua.trans ha) (huk.trans hk) hpv

theorem State.makes_set {a : DeviceAddress} (ha : s.addr = some a) (hk : s.kind = some kSet) :
    s.Makes (.setParameter a) :=
  fun _ _ hta htk hpv => State.capturedMessage_set (hta.trans ha) (htk.trans hk) hpv

theorem State.makes_update {a : DeviceAddress} (ha : s.addr = some a) (hk : s.kind = some kUpdate) :
    s.Makes (.parameterUpdate a) :=
  fun _ _ hta htk hpv => State.capturedMessage_update (hta.trans ha) (htk.trans hk) hpv

/-- R196: with the whole payload of its slot's shape captured, a decode at TERM has its message. -/
theorem State.Makes.term {make : ParameterValue → Message} {e : Slot} {p : Payload} (h : s.Makes make)
    (he : s.popSlot = some e) (hp : s.capturedPayload e.shape = some p) :
    s.capturedMessage = some (make ⟨e.name, p⟩) :=
  h s _ rfl rfl (by simp only [State.capturedParameter, he, hp])

/-- A row that consumes a byte goes on to the byte behind it. -/
theorem proceeds_consume {t : State} (hr : s.remaining = v :: rest) (hrow : row s = .next t) (hp : t.p = s.p + 1)
    (hst : t.dstatus = s.dstatus) (hm : t.dmsg = s.dmsg) (he : t.derr = s.derr)
    (hleft : t.remaining = rest → t.DecodeLeft r) : s.Proceeds r := by
  obtain ⟨-, hbuf, hlen, -, -, -, -, -, -, -, -, hepoch⟩ := row_keepsOutsideDecoder hrow
  have hrem : t.remaining = rest := State.remaining_consumed (bs := [v]) hr hp hbuf hlen hepoch
  exact .inr (.inr ⟨t, hrow, State.lt_of_remaining hr, hp, hst, hm, he, hleft hrem⟩)

/-! ## A row does the next part -/

theorem readPayload_nil (sh : Shape) : readPayload sh [] = .error .truncatedInput := by cases sh <;> rfl

/-- Where no byte remains, the reading left fails TruncatedInput, whatever the phase. -/
theorem State.DecodeLeft.truncated (h : s.DecodeLeft r) (hr : s.remaining = []) : r = .error .truncatedInput := by
  cases hph : s.phase <;> simp only [State.DecodeLeft, hph, hr] at h
  case h0 | h1 | h2 | h3 | h4 | addr => exact h.2
  case kind =>
    obtain ⟨-, a, -, rfl⟩ := h
    rfl
  case ver =>
    obtain ⟨-, a, k, -, -, rfl | rfl, rfl⟩ := h <;> rfl
  case pop =>
    obtain ⟨make, -, rfl⟩ := h
    rfl
  case plh | fld1 =>
    obtain ⟨make, e, -, -, -, rfl⟩ := h
    rw [readPayload_nil]
    rfl
  case fld2 =>
    obtain ⟨make, e, d1, d2, f1, -, -, -, -, rfl⟩ := h
    rfl
  case str =>
    obtain ⟨a, -, rfl⟩ := h
    rfl
  case term =>
    obtain ⟨m, -, rfl⟩ := h
    rfl

theorem State.DecodeLeft.phase_ne_done (h : s.DecodeLeft r) : s.phase ≠ .done := by
  intro hph
  simp only [State.DecodeLeft, hph] at h

theorem proceeds_header {c : Byte} {cs : List Byte} {nxt : Phase} (hrow : row s = rowHeader c nxt s)
    (hr : s.remaining = v :: rest) (hnext : ((s.advance 1).goto nxt).remaining = rest →
      ((s.advance 1).goto nxt).DecodeLeft (decodeFrom s.cfg cs rest)) :
    s.Proceeds (decodeFrom s.cfg (c :: cs) (v :: rest)) := by
  by_cases hv : v = c
  · subst hv
    rw [decodeFrom_cons]
    exact proceeds_consume hr (hrow.trans (rowHeader_ok hr)) rfl rfl rfl rfl hnext
  · refine .inl ⟨_, hrow.trans (rowHeader_mismatch hr hv), ?_⟩
    rw [decodeFrom, expectAll_mismatch hv]
    rfl

theorem proceeds_addr (hph : s.phase = .addr) (hr : s.remaining = v :: rest) (hv : s.vstr = []) :
    s.Proceeds (decodeFrom s.cfg [] (v :: rest)) := by
  cases ha : addressDecodeByte v with
  | none =>
    refine .inl ⟨_, row_addr_invalid hph hr ha, ?_⟩
    rw [decodeFrom, expectAll, except_ok_bind, readAddress, ha]
    rfl
  | some a =>
    refine proceeds_consume hr (row_addr_ok hph hr ha) rfl rfl rfl rfl fun hrem => ⟨hv, a, rfl, ?_⟩
    rw [hrem, decodeFrom, expectAll, except_ok_bind, readAddress, ha]
    rfl

theorem not_kind_of_afterKind_none (h : afterKind v = none) : v ∉ [kSet, kRestore, kReqVer, kRepVer, kUpdate] := by
  intro hk
  simp only [List.mem_cons, List.not_mem_nil, or_false] at hk
  rcases hk with rfl | rfl | rfl | rfl | rfl <;> cases h

theorem proceeds_kind {a : DeviceAddress} (hph : s.phase = .kind) (hr : s.remaining = v :: rest) (hv : s.vstr = [])
    (ha : s.addr = some a) : s.Proceeds (decodeKind s.cfg a v rest) := by
  cases hk : afterKind v with
  | none =>
    exact .inl ⟨_, row_kind_unknown hph hr hk, decodeKind_unknown (not_kind_of_afterKind_none hk) s.cfg a rest⟩
  | some ph =>
    refine proceeds_consume hr (row_kind_ok hph hr hk) rfl rfl rfl rfl fun hrem => ?_
    rcases afterKind_some hk with ⟨rfl, rfl⟩ | ⟨rfl | rfl, rfl⟩ | ⟨hkind, rfl⟩
    · exact ⟨_, State.makes_set ha rfl, by rw [hrem]; rfl⟩
    · exact ⟨.restoreParameter a, by simp [State.capturedMessage, ha, kSet, kRestore], by rw [hrem]; rfl⟩
    · exact ⟨.requestVersion a, by simp [State.capturedMessage, ha, kSet, kRestore, kReqVer], by rw [hrem]; rfl⟩
    · exact ⟨hv, a, v, ha, rfl, hkind, by rw [hrem]; rfl⟩

theorem proceeds_ver {a : DeviceAddress} {k : Byte} (hph : s.phase = .ver) (hr : s.remaining = v :: rest)
    (hv : s.vstr = []) (ha : s.addr = some a) (hk : s.kind = some k) (hkind : k = kRepVer ∨ k = kUpdate) :
    s.Proceeds (decodeKind s.cfg a k (v :: rest)) := by
  by_cases hver : v = version
  · subst hver
    rcases hkind with rfl | rfl
    · refine proceeds_consume hr (row_ver_ok (ph := .str) hph hr (by rw [hk]; rfl)) rfl rfl rfl rfl fun hrem =>
        ⟨a, ha, ?_⟩
      have hvstr : (s.takeVersion.goto .str).vstr = [] := hv
      rw [hrem, hvstr]
      exact decodeKind_reportVersion_string (s := []) (by simp) s.cfg a rest
    · refine proceeds_consume hr (row_ver_ok (ph := .pop) hph hr (by rw [hk]; rfl)) rfl rfl rfl rfl fun hrem =>
        ⟨_, State.makes_update ha hk, ?_⟩
      rw [hrem, decodeKind_update_version]
      rfl
  · refine .inl ⟨_, row_ver_mismatch hph hr hver, ?_⟩
    rcases hkind with rfl | rfl
    · rw [decodeKind_reportVersion, expectVersion_mismatch hver]
      rfl
    · rw [decodeKind_update, expectVersion_mismatch hver]
      rfl

theorem proceeds_pop {make : ParameterValue → Message} (hph : s.phase = .pop) (hr : s.remaining = v :: rest)
    (hmake : s.Makes make) : s.Proceeds (readToEnd (readParameter s.cfg (v :: rest)) make) := by
  cases he : s.cfg.slotAt v with
  | none =>
    refine .inl ⟨_, row_pop_unknown hph hr he, ?_⟩
    rw [readParameter_unknown he]
    rfl
  | some e =>
    rw [readParameter_slot he, readToEnd_map _ fun p => (⟨e.name, p⟩ : ParameterValue)]
    refine proceeds_consume hr (row_pop_ok hph hr he) rfl rfl rfl rfl ?_
    cases hsh : e.shape with
    | unit => exact fun hrem => ⟨make, e, hmake, he, hsh, by rw [hrem, hsh]⟩
    | one d => exact fun hrem => ⟨make, e, hmake, he, by simp [hsh], by rw [hrem, hsh]⟩
    | pair d1 d2 => exact fun hrem => ⟨make, e, hmake, he, by simp [hsh], by rw [hrem, hsh]⟩

theorem proceeds_plh {make : ParameterValue → Message} {e : Slot} (hph : s.phase = .plh)
    (hr : s.remaining = v :: rest) (hmake : s.Makes make) (he : s.popSlot = some e) (hsh : e.shape = .unit) :
    s.Proceeds (readToEnd (readPayload e.shape (v :: rest)) fun p => make ⟨e.name, p⟩) := by
  refine proceeds_consume hr (row_plh_ok hph hr) rfl rfl rfl rfl fun hrem => ⟨make ⟨e.name, .unit⟩, ?_, ?_⟩
  · exact State.Makes.term (hmake.of_captures rfl rfl) he (by rw [hsh]; rfl)
  · rw [hrem, hsh]
    rfl

theorem proceeds_fld1 {make : ParameterValue → Message} {e : Slot} (hph : s.phase = .fld1)
    (hr : s.remaining = v :: rest) (hmake : s.Makes make) (he : s.popSlot = some e) (hsh : e.shape ≠ .unit) :
    s.Proceeds (readToEnd (readPayload e.shape (v :: rest)) fun p => make ⟨e.name, p⟩) := by
  cases hs : e.shape with
  | unit => exact absurd hs hsh
  | one d =>
    rw [readPayload_one, readToEnd_map]
    cases hf : d.decodeByte v with
    | none =>
      refine .inl ⟨_, row_fld1_invalid hph hr he (by rw [hs]; rfl) hf, ?_⟩
      rw [readField_invalid hf]
      rfl
    | some f =>
      refine proceeds_consume hr (row_fld1_ok (nxt := .term) hph hr he (by rw [hs]; rfl) hf) rfl rfl rfl rfl
        fun hrem => ⟨make ⟨e.name, .one f⟩, ?_, ?_⟩
      · exact State.Makes.term (hmake.of_captures rfl rfl) he (by rw [hs]; rfl)
      · rw [hrem, readField_ok.2 ⟨v, rfl, hf⟩]
        rfl
  | pair d1 d2 =>
    cases hf : d1.decodeByte v with
    | none =>
      refine .inl ⟨_, row_fld1_invalid hph hr he (by rw [hs]; rfl) hf, ?_⟩
      rw [readPayload_pair_invalid hf]
      rfl
    | some f =>
      refine proceeds_consume hr (row_fld1_ok (nxt := .fld2) hph hr he (by rw [hs]; rfl) hf) rfl rfl rfl rfl
        fun hrem => ⟨make, e, d1, d2, f, hmake, he, hs, rfl, ?_⟩
      rw [hrem, readPayload_pair hf, readToEnd_map]

theorem proceeds_fld2 {make : ParameterValue → Message} {e : Slot} {d1 d2 : Domain} {f1 : FieldValue}
    (hph : s.phase = .fld2) (hr : s.remaining = v :: rest) (hmake : s.Makes make) (he : s.popSlot = some e)
    (hs : e.shape = .pair d1 d2) (hf1 : s.fv1 = some f1) :
    s.Proceeds (readToEnd (readField d2 (v :: rest)) fun f2 => make ⟨e.name, .pair f1 f2⟩) := by
  cases hf : d2.decodeByte v with
  | none =>
    refine .inl ⟨_, row_fld2_invalid hph hr he (by rw [hs]; rfl) hf, ?_⟩
    rw [readField_invalid hf]
    rfl
  | some f2 =>
    refine proceeds_consume hr (row_fld2_ok hph hr he (by rw [hs]; rfl) hf) rfl rfl rfl rfl
      fun hrem => ⟨make ⟨e.name, .pair f1 f2⟩, ?_, ?_⟩
    · exact State.Makes.term (hmake.of_captures rfl rfl) he (by simp [State.capturedPayload, hs, hf1])
    · rw [hrem, readField_ok.2 ⟨v, rfl, hf⟩]
      rfl

theorem proceeds_str {a : DeviceAddress} (hph : s.phase = .str) (hr : s.remaining = v :: rest) (ha : s.addr = some a) :
    s.Proceeds ((readVersionString (v :: rest)).map fun bs => .reportVersion a (s.vstr ++ bs)) := by
  by_cases hv : v = eox
  · subst hv
    cases rest with
    | nil =>
      refine .inr (.inl ⟨_, row_str_end hph hr ha, ?_, State.last_of_remaining hr⟩)
      exact congrArg (fun bs => Except.ok (Message.reportVersion a bs)) (List.append_nil s.vstr)
    | cons w rest => exact .inl ⟨_, row_str_trailing hph hr (List.cons_ne_nil w rest), rfl⟩
  · by_cases h80 : 0x80 ≤ v.toNat
    · refine .inl ⟨_, row_str_invalid hph hr h80 hv, ?_⟩
      rw [readVersionString_invalid h80 hv]
      rfl
    · have h80 := Nat.not_le.1 h80
      refine proceeds_consume hr (row_str_ok hph hr h80) rfl rfl rfl rfl fun hrem => ?_
      simp only [State.DecodeLeft, State.takeString_phase, hph]
      refine ⟨a, ha, ?_⟩
      rw [hrem, readVersionString_cons h80]
      cases readVersionString rest <;> simp [Except.map]

theorem proceeds_term {m : Message} (hph : s.phase = .term) (hr : s.remaining = v :: rest)
    (hm : s.capturedMessage = some m) : s.Proceeds (do expectEnd (v :: rest); .ok m) := by
  cases rest with
  | cons w rest => exact .inl ⟨_, row_term_trailing hph hr (List.cons_ne_nil w rest), rfl⟩
  | nil =>
    by_cases hv : v = eox
    · subst hv
      exact .inr (.inl ⟨m, row_term_ok hph hr hm, rfl, State.last_of_remaining hr⟩)
    · obtain ⟨-, -, hmismatch, -⟩ := expectEnd_tests (m := m) (rest := [v]) rfl
      exact .inl ⟨_, row_term_mismatch hph hr hv, hmismatch v rfl hv⟩

/-- R196: in every phase, the row does the next part of the decode. -/
theorem State.DecodeLeft.proceeds (h : s.DecodeLeft r) : s.Proceeds r := by
  cases hr : s.remaining with
  | nil => exact .inl ⟨_, row_truncated h.phase_ne_done hr, h.truncated hr⟩
  | cons v rest =>
    cases hph : s.phase <;> simp only [State.DecodeLeft, hph, hr] at h
    case h0 =>
      obtain ⟨hv, rfl⟩ := h
      exact proceeds_header (nxt := .h1) (by rw [row, hph]) hr fun hrem => ⟨hv, by rw [hrem]; rfl⟩
    case h1 =>
      obtain ⟨hv, rfl⟩ := h
      exact proceeds_header (nxt := .h2) (by rw [row, hph]) hr fun hrem => ⟨hv, by rw [hrem]; rfl⟩
    case h2 =>
      obtain ⟨hv, rfl⟩ := h
      exact proceeds_header (nxt := .h3) (by rw [row, hph]) hr fun hrem => ⟨hv, by rw [hrem]; rfl⟩
    case h3 =>
      obtain ⟨hv, rfl⟩ := h
      exact proceeds_header (nxt := .h4) (by rw [row, hph]) hr fun hrem => ⟨hv, by rw [hrem]; rfl⟩
    case h4 =>
      obtain ⟨hv, rfl⟩ := h
      exact proceeds_header (nxt := .addr) (by rw [row, hph]) hr fun hrem => ⟨hv, by rw [hrem]; rfl⟩
    case addr =>
      obtain ⟨hv, rfl⟩ := h
      exact proceeds_addr hph hr hv
    case kind =>
      obtain ⟨hv, a, ha, rfl⟩ := h
      exact proceeds_kind hph hr hv ha
    case ver =>
      obtain ⟨hv, a, k, ha, hk, hkind, rfl⟩ := h
      exact proceeds_ver hph hr hv ha hk hkind
    case pop =>
      obtain ⟨make, hmake, rfl⟩ := h
      exact proceeds_pop hph hr hmake
    case plh =>
      obtain ⟨make, e, hmake, he, hsh, rfl⟩ := h
      exact proceeds_plh hph hr hmake he hsh
    case fld1 =>
      obtain ⟨make, e, hmake, he, hsh, rfl⟩ := h
      exact proceeds_fld1 hph hr hmake he hsh
    case fld2 =>
      obtain ⟨make, e, d1, d2, f1, hmake, he, hs, hf1, rfl⟩ := h
      exact proceeds_fld2 hph hr hmake he hs hf1
    case str =>
      obtain ⟨a, ha, rfl⟩ := h
      exact proceeds_str hph hr ha
    case term =>
      obtain ⟨m, hm, rfl⟩ := h
      exact proceeds_term hph hr hm

end

/-! ## The rows of an operation -/

/-- R196: `n + 1` rows end the operation in flight with the result `r`, and where that is a message `n` rows do, with
the cursor at `IN_LEN`; nothing outside the decoder's registers changes. -/
def State.RowsEnd (s : State) (n : Nat) (r : Except ErrorKind Message) : Prop :=
  ∃ t, runRows (n + 1) s = .next t ∧ t.EndedWith r ∧ t.phase = .done ∧ s.KeepsOutsideDecoder t ∧
    ∀ m, r = .ok m → runRows n s = .next t ∧ t.p = s.inLen

section
variable {s t : State} {n : Nat} {r : Except ErrorKind Message}

theorem runRows_row (hb : s.dstatus = .busy) (h : row s = .next t) (n : Nat) : runRows (n + 1) s = runRows n t := by
  rw [runRows, if_pos hb, h]
  rfl

theorem State.rowsEnd_raise {e : ErrorKind} (hb : s.dstatus = .busy) (hm : s.dmsg = none)
    (h : row s = .next (s.raise e)) (n : Nat) : s.RowsEnd n (.error e) := by
  have hrun : runRows (n + 1) s = .next (s.raise e) := (runRows_row hb h n).trans (runRows_ended (by simp) n)
  exact ⟨_, hrun, ⟨rfl, rfl, hm⟩, rfl, row_keepsOutsideDecoder h, by simp⟩

theorem State.rowsEnd_accept {m : Message} (hb : s.dstatus = .busy) (he : s.derr = none) (hp : s.p + 1 = s.inLen)
    (h : row s = .next (s.accept m)) (n : Nat) : s.RowsEnd (n + 1) (.ok m) := by
  have hrun : ∀ k, runRows (k + 1) s = .next (s.accept m) := fun k =>
    (runRows_row hb h k).trans (runRows_ended (by simp) k)
  exact ⟨_, hrun (n + 1), ⟨rfl, rfl, he⟩, rfl, row_keepsOutsideDecoder h, fun _ _ => ⟨hrun n, hp⟩⟩

theorem State.RowsEnd.row_first (ht : t.RowsEnd n r) (hb : s.dstatus = .busy) (h : row s = .next t) :
    s.RowsEnd (n + 1) r := by
  obtain ⟨u, hrun, hend, hdone, hkeep, hok⟩ := ht
  have hfirst := row_keepsOutsideDecoder h
  obtain ⟨-, -, hlen, -⟩ := id hfirst
  refine ⟨u, (runRows_row hb h _).trans hrun, hend, hdone, hfirst.trans hkeep, fun m hr => ?_⟩
  obtain ⟨hrun', hp⟩ := hok m hr
  exact ⟨(runRows_row hb h n).trans hrun', hp.trans hlen⟩

/-- R193, R196: the rows end with the result of the decode that is left, after at most one row for each byte that
remains and one more. -/
theorem State.DecodeLeft.rowsEnd (h : s.DecodeLeft r) (hb : s.dstatus = .busy) (hm : s.dmsg = none)
    (he : s.derr = none) (hn : s.inLen - s.p = n) : s.RowsEnd n r := by
  induction n generalizing s with
  | zero =>
    rcases h.proceeds with ⟨e, hrow, rfl⟩ | ⟨m, -, -, hp⟩ | ⟨t, -, hp, -⟩
    · exact State.rowsEnd_raise hb hm hrow 0
    · omega
    · omega
  | succ n ih =>
    rcases h.proceeds with ⟨e, hrow, rfl⟩ | ⟨m, hrow, rfl, hp⟩ | ⟨t, hrow, -, htp, htb, htm, hte, hleft⟩
    · exact State.rowsEnd_raise hb hm hrow (n + 1)
    · exact State.rowsEnd_accept hb he hp hrow n
    · obtain ⟨-, -, hlen, -⟩ := row_keepsOutsideDecoder hrow
      exact (ih hleft (htb.trans hb) (htm.trans hm) (hte.trans he) (by omega)).row_first hb hrow

end

/-- R193: at the start the whole decode is left. -/
theorem State.Started.decodeLeft {s : State} (h : s.Started) : s.DecodeLeft (decodeMessage s.cfg s.frame) := by
  obtain ⟨-, hph, hp, ⟨-, -, -, -, -, hv⟩, -, -⟩ := h
  simp only [State.DecodeLeft, hph]
  refine ⟨hv, ?_⟩
  rw [← State.remaining_start hp]
  exact (decodeFrom_header s.cfg s.remaining).symm

/-- R196: the rows of a started operation end with the decode of its frame. -/
theorem State.Started.rowsEnd {s : State} (h : s.Started) : s.RowsEnd s.inLen (decodeMessage s.cfg s.frame) := by
  have hleft := h.decodeLeft
  obtain ⟨hb, -, hp, -, hm, he⟩ := h
  exact hleft.rowsEnd hb hm he (by rw [hp, Nat.sub_zero])

/-- Settles O45: each row does the next part of the decode, by induction on the bytes that remain. -/
theorem rowsComputeDecode : Obligations.RowsComputeDecode := fun _ h => h.rowsEnd

/-- Settles O46: the block's own move on a frame that does not decode is the run of its rows. -/
theorem undecodableFrameYieldsOnlyFailure : Obligations.UndecodableFrameYieldsOnlyFailure := by
  intro s e hi hturn hs hd
  obtain ⟨t, hrun, hend, hdone, hkeep, -⟩ := hs.rowsEnd
  obtain ⟨hb, hph, hp, -, -, -⟩ := hs
  rw [hd] at hend
  obtain ⟨hst, herr, hmsg⟩ := hend
  refine ⟨t, ?_, hst, herr, hmsg, hdone, hkeep, by simp [tickDecoder, hst]⟩
  have hdecode : decode s.cfg .frame s.remaining = .error e := by
    rw [State.remaining_start hp, decode, hd]
    rfl
  rw [step_moveDecoder hi hturn hb, moveDecoder, State.fetchKind, hph]
  simp only [hdecode]
  rw [hp]
  exact hrun

/-! ## The result as a function of frame and table (R180) -/

theorem decodeKind_congr {c c' : Config} (h : c.cat = c'.cat) (a : DeviceAddress) (k : Byte) (bs : List Byte) :
    decodeKind c a k bs = decodeKind c' a k bs := by
  simp only [decodeKind, readParameter_congr h]

/-- R180: the decode function looks at nothing of the configuration but the table. -/
theorem decodeMessage_congr {c c' : Config} (h : c.cat = c'.cat) (bs : List Byte) :
    decodeMessage c bs = decodeMessage c' bs := by
  simp only [decodeMessage, decodeKind_congr h]

/-- R180: a decode that has ended has a message and no error, or an error and no message. -/
theorem State.EndedWith.exclusive {t : State} {r : Except ErrorKind Message} (h : t.EndedWith r) :
    (t.dstatus = .ok ∧ t.dmsg.isSome = true ∧ t.derr = none) ∨
      (t.dstatus = .err ∧ t.dmsg = none ∧ t.derr.isSome = true) := by
  cases r with
  | ok m =>
    obtain ⟨hst, hm, he⟩ := h
    exact .inl ⟨hst, by rw [hm]; rfl, he⟩
  | error e =>
    obtain ⟨hst, he, hm⟩ := h
    exact .inr ⟨hst, hm, by rw [he]; rfl⟩

/-- R180: two decodes that have ended with one result agree in status, message and error. -/
theorem State.EndedWith.unique {t t' : State} {r : Except ErrorKind Message} (h : t.EndedWith r)
    (h' : t'.EndedWith r) : t.dstatus = t'.dstatus ∧ t.dmsg = t'.dmsg ∧ t.derr = t'.derr := by
  cases r with
  | ok m =>
    obtain ⟨hst, hm, he⟩ := h
    obtain ⟨hst', hm', he'⟩ := h'
    exact ⟨hst.trans hst'.symm, hm.trans hm'.symm, he.trans he'.symm⟩
  | error e =>
    obtain ⟨hst, he, hm⟩ := h
    obtain ⟨hst', he', hm'⟩ := h'
    exact ⟨hst.trans hst'.symm, hm.trans hm'.symm, he.trans he'.symm⟩

/-- Settles O47: the rows end with the result of the decode function, which looks at frame and table alone. -/
theorem decodeResultIsFunctionOfFrame : Obligations.DecodeResultIsFunctionOfFrame := by
  refine ⟨fun s hs => ?_, fun s s' t t' hcat hframe hs hs' hrun hrun' => ?_⟩
  · obtain ⟨t, hrun, hend, -⟩ := hs.rowsEnd
    exact ⟨t, hrun, hend.exclusive⟩
  · obtain ⟨u, hu, hend, -⟩ := hs.rowsEnd
    obtain ⟨u', hu', hend', -⟩ := hs'.rowsEnd
    obtain rfl := Host.Outcome.next.inj (hu.symm.trans hrun)
    obtain rfl := Host.Outcome.next.inj (hu'.symm.trans hrun')
    rw [← hframe, ← decodeMessage_congr hcat] at hend'
    exact hend.unique hend'

end Sys2Proof.Machine
end

section
/-! SUPPORT. A frame instruction in each unit: in the encoder the frame that stands in `OUT`, at once (R194, R240) or
emit by emit (R268), in the decoder the registers its arm leaves (R188 to R192). -/

namespace Sys2Proof.Machine

/-! ## Stored bytes -/

/-- R156, R194: bytes stored in `OUT` at the output index, and the index past them. -/
def State.store (s : State) (bs : List Byte) : State :=
  { s with outBuf := s.outBuf.writeAll s.eidx bs, eidx := s.eidx + bs.length }

/-- R194: the encode of a message has completed: its frame stored in `OUT` from 0 on, the index past it, `OUT_LEN` its
length, the status DONE. -/
def State.encoded (s : State) (m : Message) : State :=
  s.withEncoder .done m.frameLength (s.outBuf.writeAll 0 (encodeMessage s.cfg m)) (some m.frameLength)

section
variable {s : State} {m : Message}

theorem State.store_cons (s : State) (v : Byte) (bs : List Byte) : s.store (v :: bs) = (s.store [v]).store bs := by
  simp [State.store, Memory.writeAll, Nat.add_assoc, Nat.add_comm bs.length 1]

/-- R156, R194: an emit that fits stores its bytes. -/
theorem emitBytes_eq {bs : List Byte} (h : s.eidx + bs.length ≤ s.cfg.maxFrameLen) :
    emitBytes bs s = .next (s.store bs) := emitBytes_next.2 ⟨h, rfl⟩

/-- R194: with the whole frame stored from 0 on and the status DONE, the encode has completed. -/
theorem State.store_frame_setDone (hw : m.wf s.cfg = true) (hi : s.eidx = 0) :
    (s.store (encodeMessage s.cfg m)).setDone = s.encoded m := by
  rw [State.store, hi, encodeMessage_length hw, Nat.zero_add]
  rfl

/-- R194, R240: a completed encode holds the frame in `OUT` and has changed nothing else. -/
theorem State.encoded_frame (hw : m.wf s.cfg = true) (hout : Memory.wf s.outBuf) :
    Memory.Holds (s.encoded m).outBuf 0 (encodeMessage s.cfg m) ∧ (encodeMessage s.cfg m).length = m.frameLength ∧
      Memory.SameOutside s.outBuf (s.encoded m).outBuf 0 m.frameLength ∧ s.KeepsOutsideEncoder (s.encoded m) := by
  have hlen := encodeMessage_length hw
  refine ⟨Memory.writeAll_holds hout 0 _, hlen, hlen ▸ Memory.writeAll_sameOutside hout 0 _, ?_⟩
  simp [State.KeepsOutsideEncoder, State.encoded, State.withEncoder]

/-! ## The encoder: a whole frame at once -/

/-- R194: in a started encoder, `exec` of a message's frame completes the encode of it. -/
theorem exec_frame_encoder (hc : s.cfg.Admissible) (hw : m.wf s.cfg = true) (hturn : s.turn = .encoder)
    (hb : s.estatus = .busy) (hi : s.eidx = 0) : exec m.toInstr s = .next (s.encoded m) := by
  have hfit : s.eidx + (encodeMessage s.cfg m).length ≤ s.cfg.maxFrameLen := by
    rw [hi, Nat.zero_add, encodeMessage_length hw]
    exact Message.frameLength_le hc hw
  have hrun : runFrame m (frameArm m) (encodeMessage s.cfg m) s =
      andThen (emitBytes (encodeMessage s.cfg m) s) fun t => .next t.setDone := by
    simp only [runFrame, hw, hturn, hb, hi, and_self, if_true]
  rw [exec_toInstr, hrun, emitBytes_eq hfit, andThen_next_eq, State.store_frame_setDone hw hi]

end

/-- Settles O54: `exec` of a frame completes the encode of its message. -/
theorem frameEncodeCompletes : Obligations.FrameEncodeCompletes :=
  fun s m hc hw hout hturn hb hi =>
    ⟨s.encoded m, exec_frame_encoder hc hw hturn hb hi, rfl, rfl, rfl, State.encoded_frame hw hout⟩

/-! ## The encoder: emit by emit -/

section
variable {s : State} {m : Message}

/-- R194: inside the frame and inside `OUT`, an emit stores the byte at the index. -/
theorem emitNext_eq (hlt : s.eidx < (encodeMessage s.cfg s.messageIn).length) (hfit : s.eidx < s.cfg.maxFrameLen) :
    emitNext s = .next (doneAfter (encodeMessage s.cfg s.messageIn).length
      (s.store [(encodeMessage s.cfg s.messageIn)[s.eidx]])) := by
  have hemit := emitBytes_eq (s := s) (bs := [(encodeMessage s.cfg s.messageIn)[s.eidx]]) hfit
  simp only [emitNext, List.getElem?_eq_getElem hlt, hemit, andThen_next_eq]

theorem doneAfter_busy {len : Nat} (h : s.eidx < len) : doneAfter len s = s := if_neg (Nat.not_le.2 h)

theorem doneAfter_done {len : Nat} (h : len ≤ s.eidx) : doneAfter len s = s.setDone := if_pos h

/-- R268: `n` emits from inside the frame store the frame's next `n` bytes. -/
theorem runEmits_eq {n : Nat} (hb : s.estatus = .busy) (hlt : s.eidx < (encodeMessage s.cfg s.messageIn).length)
    (hn : s.eidx + n ≤ (encodeMessage s.cfg s.messageIn).length)
    (hfit : (encodeMessage s.cfg s.messageIn).length ≤ s.cfg.maxFrameLen) :
    runEmits n s = .next (doneAfter (encodeMessage s.cfg s.messageIn).length
      (s.store (((encodeMessage s.cfg s.messageIn).drop s.eidx).take n))) := by
  induction n generalizing s with
  | zero => exact congrArg Host.Outcome.next (doneAfter_busy hlt).symm
  | succ n ih =>
    rw [runEmits, if_pos hb, emitNext_eq hlt (by omega), andThen_next_eq, List.drop_eq_getElem_cons hlt,
      List.take_succ_cons, State.store_cons s _ (List.take n _)]
    generalize (encodeMessage s.cfg s.messageIn)[s.eidx] = v
    by_cases hlast : s.eidx + 1 = (encodeMessage s.cfg s.messageIn).length
    · obtain rfl : n = 0 := by omega
      rfl
    · have hmore : (s.store [v]).eidx < (encodeMessage s.cfg s.messageIn).length := Nat.lt_of_le_of_ne hlt hlast
      have hroom : (s.store [v]).eidx + n ≤ (encodeMessage s.cfg s.messageIn).length := by
        show s.eidx + 1 + n ≤ _
        omega
      rw [doneAfter_busy hmore]
      exact ih hb hmore hroom hfit

/-- R194, R268: `n` emits of a started encode store the first `n` bytes of the message's frame. -/
theorem State.Encoding.runEmits {n : Nat} (h : s.Encoding m) (hc : s.cfg.Admissible) (hw : m.wf s.cfg = true)
    (hn : n ≤ m.frameLength) :
    Machine.runEmits n s = .next (doneAfter m.frameLength (s.store ((encodeMessage s.cfg m).take n))) := by
  obtain ⟨hb, hi, rfl, -⟩ := h
  have hlen := encodeMessage_length hw
  have hpos := Message.frameLength_pos s.messageIn
  have hle := Message.frameLength_le hc hw
  rw [runEmits_eq hb (by omega) (by omega) (by omega), hi, List.drop_zero, hlen]

end

/-- Settles O57: `n` emits store the first `n` bytes of the frame, and the last one completes the encode. -/
theorem emitsComputeEncode : Obligations.EmitsComputeEncode := by
  intro s m hc hw hout he
  have hlen := encodeMessage_length hw
  obtain ⟨hb, hi, -, -⟩ := id he
  have hidx : ∀ n, n ≤ m.frameLength → (s.store ((encodeMessage s.cfg m).take n)).eidx = n := by
    intro n hn
    show s.eidx + _ = n
    rw [hi, Nat.zero_add, List.length_take, hlen, Nat.min_eq_left hn]
  refine ⟨⟨s.encoded m, ?_, rfl, rfl, State.encoded_frame hw hout⟩, fun n hn => ?_⟩
  · rw [he.runEmits hc hw le_rfl, doneAfter_done (hidx _ le_rfl).ge, ← hlen, List.take_length,
      State.store_frame_setDone hw hi]
  · have hlt := (hidx n hn.le).trans_lt hn
    refine ⟨_, (he.runEmits hc hw hn.le).trans (congrArg _ (doneAfter_busy hlt)), hb, hidx n hn.le, ?_⟩
    rw [State.store, hi]
    exact Memory.writeAll_holds hout 0 _

/-! ## The decoder -/

section
variable {s : State} {m : Message}

/-- R188 to R192: in a started decoder, `exec` of a message's frame leaves what the arm of the message leaves. -/
theorem exec_frame_decoder (hw : m.wf s.cfg = true) (hturn : s.turn = .decoder) (hb : s.dstatus = .busy)
    (hph : s.phase = .h0) : exec m.toInstr s = .next (frameArm m s) := by
  rw [exec_toInstr]
  simp only [runFrame, hw, hturn, hb, hph, and_self, if_true]

/-- R29, R188, R192: what the decode of a frame with an entry captures. -/
theorem frameArm_captures {n : Nat} {pv : ParameterValue} (he : m.entry? = some (n, pv)) (s : State) :
    (frameArm m s).pop = s.cfg.opcodeOf pv.name ∧
      (pv.payload = .unit → (frameArm m s).fv1 = s.fv1 ∧ (frameArm m s).fv2 = s.fv2) ∧
      (∀ f, pv.payload = .one f → (frameArm m s).fv1 = some f ∧ (frameArm m s).fv2 = s.fv2) ∧
      (∀ f1 f2, pv.payload = .pair f1 f2 → (frameArm m s).fv1 = some f1 ∧ (frameArm m s).fv2 = some f2) ∧
      (frameArm m s).vstr = s.vstr := by
  cases m <;> cases he
  case setParameter a =>
    obtain ⟨hunit, hone, hpair⟩ := State.takeEntry_fields (s := s.takePrefix a kSet) (pv := pv)
    exact ⟨by simp [frameArm], hunit, hone, hpair, by simp [frameArm]⟩
  case parameterUpdate a =>
    obtain ⟨hunit, hone, hpair⟩ := State.takeEntry_fields (s := (s.takePrefix a kUpdate).takeVersion) (pv := pv)
    exact ⟨by simp [frameArm, State.takeVersion], hunit, hone, hpair, by simp [frameArm, State.takeVersion]⟩

end

/-- Settles O51: the arm of either kind presents the message and captures the entry's fields. -/
theorem catalogueFrameDecodeCompletes : Obligations.CatalogueFrameDecodeCompletes := by
  intro s a pv ha hpv hturn hb hph
  have hw : (a.wf && pv.wf s.cfg) = true := by rw [ha, hpv, Bool.and_self]
  constructor
  · have hexec := exec_frame_decoder (m := .setParameter a pv) hw hturn hb hph
    obtain ⟨hst, hdone, hmsg, herr, hp⟩ := frameArm_result (.setParameter a pv) s
    obtain ⟨hpop, hunit, hone, hpair, hvstr⟩ := frameArm_captures (m := .setParameter a pv) rfl s
    exact ⟨_, hexec, hst, hmsg, hdone, hp.trans (Nat.add_assoc _ _ _).symm, by simp [frameArm], by simp [frameArm],
      hpop, hunit, hone, hpair, hvstr, herr, frameArm_keepsOutsideDecoder _ s⟩
  · have hexec := exec_frame_decoder (m := .parameterUpdate a pv) hw hturn hb hph
    obtain ⟨hst, hdone, hmsg, herr, hp⟩ := frameArm_result (.parameterUpdate a pv) s
    obtain ⟨hpop, hunit, hone, hpair, hvstr⟩ := frameArm_captures (m := .parameterUpdate a pv) rfl s
    exact ⟨_, hexec, hst, hmsg, hdone, hp.trans (Nat.add_assoc _ _ _).symm, by simp [frameArm, State.takeVersion],
      by simp [frameArm, State.takeVersion], hpop, hunit, hone, hpair, hvstr, herr,
      frameArm_keepsOutsideDecoder _ s⟩

/-- Settles O52: the arms of the two kinds without a payload. -/
theorem payloadlessFrameDecodeCompletes : Obligations.PayloadlessFrameDecodeCompletes :=
  fun _ a ha hturn hb hph => ⟨exec_frame_decoder (m := .restoreParameter a) ha hturn hb hph,
    exec_frame_decoder (m := .requestVersion a) ha hturn hb hph⟩

/-- Settles O53: the arm of ReportVersion takes the whole string. -/
theorem reportVersionDecodeCompletes : Obligations.ReportVersionDecodeCompletes := by
  intro s a v ha hv hfit hturn hb hph
  have hw : Message.wf (.reportVersion a v) s.cfg = true := by
    rw [Message.wf, ha, versionStringWf_iff.2 ⟨hv, hfit⟩, Bool.and_self]
  have hp : s.p + 9 + v.length = s.p + 7 + 1 + v.length + 1 := by omega
  refine (exec_frame_decoder hw hturn hb hph).trans (congrArg _ ?_)
  simp only [frameArm, State.accept, State.takeString, State.takeVersion, State.takePrefix, State.captureString,
    State.captureAddr, State.captureKind, State.setOk, State.advance, State.goto, hp]

end Sys2Proof.Machine
end

section
/-! SUPPORT. The block's own move (R193, R194, assumption 4): which instruction it runs, that under the invariant it is
never stuck (R180), and what it makes of a frame or a message just put in (R263). -/

namespace Sys2Proof.Machine

/-! ## Which instruction runs -/

section
variable {s : State}

/-- With no request waiting, an encoder that is BUSY and has the turn moves. -/
theorem step_moveEncoder (hi : s.inputs = []) (hturn : s.turn = .encoder) (hb : s.estatus = .busy) :
    step s = moveEncoder s := by
  have hself : ({ s with turn := .encoder } : State) = s := by rw [← hturn]
  have hmover : s.mover = some .encoder := by simp [State.mover, hturn, State.unitBusy, hb]
  rw [step, hi]
  simp only [moveBlock, hmover, hself]

theorem moveDecoder_fetched {f : Fetch} {i : Instr} (hf : s.fetchKind = some f)
    (hd : decode s.cfg f s.remaining = .ok i) : moveDecoder s = exec i s := by
  simp only [moveDecoder, hf, hd]

theorem moveEncoder_frame (hi : s.eidx = 0) : moveEncoder s = exec s.messageIn.toInstr s := by
  rw [moveEncoder, if_pos hi]

theorem moveEncoder_entry {pv : ParameterValue} (he : s.messageIn.entry? = some (s.eidx, pv)) :
    moveEncoder s = exec pv.toInstr s := by
  have hne : s.eidx ≠ 0 := by
    intro hi
    rw [hi] at he
    cases hm : s.messageIn <;> simp [hm, Message.entry?] at he
  simp only [moveEncoder, if_neg hne, he, if_true]

end

/-- Settles O49: the unit with the turn moves, and its move fetches the instruction. -/
theorem stepRunsFetchedInstruction : Obligations.StepRunsFetchedInstruction := by
  refine ⟨fun s i hi hturn hb hph hd => ?_, fun s i hi hturn hb hph hd => ?_, ?_, ?_⟩
  · rw [step_moveDecoder hi hturn hb, moveDecoder_fetched (by rw [State.fetchKind, hph]) hd]
  · rw [step_moveDecoder hi hturn hb, moveDecoder_fetched (by rw [State.fetchKind, hph]) hd]
  · rintro s m hi hturn ⟨hb, hidx, rfl, -⟩
    rw [step_moveEncoder hi hturn hb, moveEncoder_frame hidx]
  · rintro s m n pv hi hturn hb rfl he rfl
    rw [step_moveEncoder hi hturn hb, moveEncoder_entry he]

/-! ## No unit is stuck (R180, R196) -/

section
variable {s : State}

/-- R64, R196: at an entry the captured kind says which message is being read. -/
theorem State.makes_of_entryAt {a : DeviceAddress} {n : Nat} (ha : s.addr = some a) (h : s.EntryAt n) :
    ∃ make, s.Makes make := by
  rcases h with ⟨hk, -⟩ | ⟨hk, -⟩
  · exact ⟨_, State.makes_set ha hk⟩
  · exact ⟨_, State.makes_update ha hk⟩

/-- R196: with the captures of its phase, an operation in flight has a reading left to do. -/
theorem State.CapturesOk.decodeLeft (h : s.CapturesOk) (hph : s.phase ≠ .done) : ∃ r, s.DecodeLeft r := by
  cases hp : s.phase <;> simp only [State.CapturesOk, hp] at h <;> simp only [State.DecodeLeft, hp]
  case h0 | h1 | h2 | h3 | h4 | addr =>
    obtain ⟨⟨-, -, -, -, -, hv⟩, -⟩ := h
    exact ⟨_, hv, rfl⟩
  case kind =>
    obtain ⟨⟨a, ha, -⟩, hv, -⟩ := h
    exact ⟨_, hv, a, ha, rfl⟩
  case ver =>
    obtain ⟨⟨a, ha, -⟩, hv, hk | hk, -⟩ := h
    · exact ⟨_, hv, a, _, ha, hk, .inl rfl, rfl⟩
    · exact ⟨_, hv, a, _, ha, hk, .inr rfl, rfl⟩
  case pop =>
    obtain ⟨⟨a, ha, -⟩, hat⟩ := h
    obtain ⟨make, hmake⟩ := State.makes_of_entryAt ha hat
    exact ⟨_, make, hmake, rfl⟩
  case plh | fld1 =>
    obtain ⟨⟨a, ha, -⟩, n, hat, -, e, he, hsh⟩ := h
    obtain ⟨make, hmake⟩ := State.makes_of_entryAt ha hat
    exact ⟨_, make, e, hmake, he, hsh, rfl⟩
  case fld2 =>
    obtain ⟨⟨a, ha, -⟩, n, hat, -, e, d2, f, he, hsh, hf, -⟩ := h
    obtain ⟨make, hmake⟩ := State.makes_of_entryAt ha hat
    exact ⟨_, make, e, _, d2, f, hmake, he, hsh, hf, rfl⟩
  case str =>
    obtain ⟨⟨a, ha, -⟩, -⟩ := h
    exact ⟨_, a, ha, rfl⟩
  case term =>
    have hmsg : ∃ m, s.capturedMessage = some m := by
      obtain ⟨⟨a, ha, -⟩, ⟨hk | hk, -⟩ | ⟨n, pv, hat, hpv, -⟩⟩ := h
      · exact ⟨.restoreParameter a, by simp [State.capturedMessage, ha, hk, kSet, kRestore]⟩
      · exact ⟨.requestVersion a, by simp [State.capturedMessage, ha, hk, kSet, kRestore, kReqVer]⟩
      · obtain ⟨make, hmake⟩ := State.makes_of_entryAt ha hat
        exact ⟨_, hmake s pv rfl rfl hpv⟩
    obtain ⟨m, hm⟩ := hmsg
    exact ⟨_, m, hm, rfl⟩
  case done => exact absurd hp hph

theorem State.Proceeds.row_goes_on {r : Except ErrorKind Message} (h : s.Proceeds r) : ∃ t, row s = .next t := by
  rcases h with ⟨e, hrow, -⟩ | ⟨m, hrow, -⟩ | ⟨t, hrow, -⟩ <;> exact ⟨_, hrow⟩

theorem State.fetchKind_frame (h : s.fetchKind = some .frame) : s.phase = .h0 := by
  cases hp : s.phase <;> simp [State.fetchKind, hp] at h ⊢

theorem State.fetchKind_entry (h : s.fetchKind = some .entry) : s.phase = .pop := by
  cases hp : s.phase <;> simp [State.fetchKind, hp] at h ⊢

/-- R64, R66: behind the entry of a frame stands the terminator alone. -/
theorem Message.entry?_frameLength {m : Message} {n : Nat} {pv : ParameterValue} (h : m.entry? = some (n, pv)) :
    n + pv.payload.entryLength + 1 = m.frameLength := by
  cases m <;> cases h <;> simp only [Message.frameLength] <;> omega

theorem State.mover_busy {u : Agent} (h : s.mover = some u) : s.unitBusy u = true := by
  simp only [State.mover] at h
  repeat' split at h
  all_goals simp_all

namespace State.Inv

/-- R196: an operation in flight has a reading left to do. -/
theorem decodeLeft (h : s.Inv) (hb : s.dstatus = .busy) : ∃ r, s.DecodeLeft r := by
  obtain ⟨-, hph, -⟩ := h.phases
  exact (h.captures hb).decodeLeft (hph hb)

theorem row_goes_on (h : s.Inv) (hb : s.dstatus = .busy) : ∃ t, row s = .next t := by
  obtain ⟨r, hr⟩ := h.decodeLeft hb
  exact hr.proceeds.row_goes_on

theorem emit_goes_on (h : s.Inv) (hb : s.estatus = .busy) : ∃ t, Machine.emitNext s = .next t := by
  obtain ⟨-, hbusy, -⟩ := h.encoder
  have hidx := (hbusy hb).1
  have hlt : s.eidx < (encodeMessage s.cfg s.messageIn).length := hidx.trans_eq (encodeMessage_length h.emsg).symm
  exact ⟨_, emitNext_eq hlt (hidx.trans_le (Message.frameLength_le h.config h.emsg))⟩

/-- R180: the decoder's own move goes on: the frame or the entry that decodes runs, and rows run otherwise. -/
theorem moveDecoder_goes_on (h : s.Inv) (hb : s.dstatus = .busy) (hturn : s.turn = .decoder) :
    ∃ t, moveDecoder s = .next t := by
  obtain ⟨-, -, -, -, hfit⟩ := h.buffers
  have hp := h.cursor.2 hb
  cases hf : s.fetchKind with
  | none =>
    simp only [moveDecoder, hf]
    exact h.row_goes_on hb
  | some f =>
    cases hd : decode s.cfg f s.remaining with
    | error e =>
      simp only [moveDecoder, hf, hd, Nat.succ_sub hp]
      obtain ⟨hm, he⟩ := h.no_result hb
      obtain ⟨r, hr⟩ := h.decodeLeft hb
      obtain ⟨t, hrun, -⟩ := hr.rowsEnd hb hm he rfl
      exact ⟨t, hrun⟩
    | ok i =>
      rw [moveDecoder_fetched hf hd]
      cases f with
      | frame =>
        obtain ⟨m, hm, rfl⟩ := decode_frame_ok hd
        have hlen : s.remaining.length ≤ s.cfg.maxFrameLen := by
          rw [State.remaining_length]
          omega
        exact ⟨_, exec_frame_decoder (decodeMessage_wf h.config hlen hm) hturn hb (State.fetchKind_frame hf)⟩
      | entry =>
        obtain ⟨pv, rest, hr, rfl⟩ := decode_entry_ok hd
        rw [exec_parameter (parameter?_toInstr pv)]
        exact ⟨_, runEntry_decoder (readParameter_wf h.config hr).1 hturn hb (State.fetchKind_entry hf)⟩

/-- R194: the encoder's own move goes on: the frame, the entry and every single byte fit `OUT`. -/
theorem moveEncoder_goes_on (h : s.Inv) (hb : s.estatus = .busy) (hturn : s.turn = .encoder) :
    ∃ t, moveEncoder s = .next t := by
  by_cases hi : s.eidx = 0
  · rw [moveEncoder_frame hi]
    exact ⟨_, exec_frame_encoder h.config h.emsg hturn hb hi⟩
  by_cases hentry : ∃ pv, s.messageIn.entry? = some (s.eidx, pv)
  · obtain ⟨pv, he⟩ := hentry
    rw [moveEncoder_entry he, exec_parameter (parameter?_toInstr pv)]
    have hlen := Message.entry?_frameLength he
    have hle := Message.frameLength_le h.config h.emsg
    exact ⟨_, runEntry_encoder (Message.wf_entry h.emsg he) hturn hb (by omega)⟩
  · have hemit : moveEncoder s = Machine.emitNext s := by
      rw [moveEncoder, if_neg hi]
      split
      · rfl
      · rename_i n pv he
        rw [if_neg]
        rintro rfl
        exact hentry ⟨pv, he⟩
    rw [hemit]
    exact h.emit_goes_on hb

end State.Inv

end

/-- Settles O41: a BUSY decoder has a reading left to do, which a row goes on with, and a BUSY encoder's index is inside
its frame, which fits `OUT`. -/
theorem unitsAreNeverStuck : Obligations.UnitsAreNeverStuck := by
  refine fun s h => ⟨fun hb => ?_, fun hb => ?_, fun hi => ?_⟩
  · rw [tickDecoder, if_pos hb]
    exact h.row_goes_on hb
  · rw [tickEncoder, if_pos hb]
    exact h.emit_goes_on hb
  · rw [step, hi]
    cases hm : s.mover with
    | none => exact ⟨s, by simp only [moveBlock, hm]⟩
    | some u =>
      have hbusy := State.mover_busy hm
      have hturn := h.with_ports u s.inputs s.port
      cases u with
      | decoder =>
        simp only [moveBlock, hm]
        exact hturn.moveDecoder_goes_on (eq_of_beq hbusy) rfl
      | encoder =>
        simp only [moveBlock, hm]
        exact hturn.moveEncoder_goes_on (eq_of_beq hbusy) rfl

/-! ## Load, start and move (R263) -/

/-- R30: bytes that stand in `IN` are the bytes read from there on. -/
theorem State.bytesFrom_of_holds {s : State} {a : Nat} {bs : List Byte} (h : Memory.Holds s.inBuf a bs) :
    s.bytesFrom a bs.length = bs := by
  induction bs generalizing a with
  | nil => rfl
  | cons v bs ih =>
    have hfirst : s.inBuf.read a = some v := h 0 (Nat.succ_pos _)
    have hrest : Memory.Holds s.inBuf (a + 1) bs := by
      intro k hk
      rw [Nat.add_assoc, Nat.add_comm 1 k]
      exact h (k + 1) (Nat.succ_lt_succ hk)
    have hbyte : s.inByte a = v := by rw [State.inByte, hfirst]
    rw [List.length_cons, State.bytesFrom, ih hrest, hbyte]

/-- R263: the frame loaded is the frame in `IN`. -/
theorem State.withFrame_frame {s : State} (h : Memory.wf s.inBuf) (bs : List Byte) : (s.withFrame bs).frame = bs :=
  State.bytesFrom_of_holds (Memory.writeAll_holds h 0 bs)

section
variable {s t : State}

/-- A run of the machine begins with a step. -/
theorem core_run_succ (h : step s = .next t) (n : Nat) :
    Host.Core.run Sys2Proof.core (n + 1) s = Host.Core.run Sys2Proof.core n t := by
  have hstep : Sys2Proof.core.step s = .next t := h
  simp only [Host.Core.run, hstep]

/-- R196, R263: a load of a frame that fits and a start put a decoder that is not BUSY at the start of that frame. -/
theorem run_load_start {bs : List Byte} (hb : s.dstatus ≠ .busy) (hfit : bs.length ≤ s.cfg.maxFrameLen)
    (hi : s.inputs = [.loadFrame bs, .startDecode]) (n : Nat) :
    Host.Core.run Sys2Proof.core (n + 2) s = Host.Core.run Sys2Proof.core n (s.withFrame bs) := by
  have hload : step s = .next { s with
      inputs := [.startDecode], inBuf := s.inBuf.writeAll 0 bs, inLen := bs.length } := by
    rw [step_request hi]
    exact (if_neg hb).trans (if_neg (Nat.not_lt.2 hfit))
  rw [core_run_succ hload (n + 1)]
  refine core_run_succ ?_ n
  rw [step_request rfl]
  exact if_neg hb

/-- R194, R263: a write of a message and a start put an encoder that is not BUSY at the start of its frame. -/
theorem run_write_start {m : Message} (hb : s.estatus ≠ .busy) (hw : m.wf s.cfg = true)
    (hi : s.inputs = [.loadMessage m, .startEncode]) (n : Nat) :
    Host.Core.run Sys2Proof.core (n + 2) s =
      Host.Core.run Sys2Proof.core n ({ s with inputs := [], emsg := some m } : State).beginEncode := by
  have hload : step s = .next { s with inputs := [.startEncode], emsg := some m } := by
    rw [step_request hi]
    exact (if_neg hb).trans (if_pos hw)
  rw [core_run_succ hload (n + 1)]
  refine core_run_succ ?_ n
  rw [step_request rfl]
  exact if_neg hb

/-- R193: the block's own move at the start of a frame that decodes. -/
theorem step_frame_decoder {m : Message} (hi : s.inputs = []) (hturn : s.turn = .decoder) (hb : s.dstatus = .busy)
    (hph : s.phase = .h0) (hd : decodeMessage s.cfg s.remaining = .ok m) (hw : m.wf s.cfg = true) :
    step s = .next (frameArm m s) := by
  have hdecode : decode s.cfg .frame s.remaining = .ok m.toInstr := by
    rw [decode, hd]
    rfl
  rw [step_moveDecoder hi hturn hb, moveDecoder_fetched (by rw [State.fetchKind, hph]) hdecode,
    exec_frame_decoder hw hturn hb hph]

end

/-- Settles O60: two requests put the unit at the start of its frame, and the block's own move runs the frame's
instruction there. -/
theorem loadStartMoveDecodesMessage : Obligations.LoadStartMoveDecodesMessage := by
  constructor
  · intro s m h hb hw hi
    obtain ⟨hin, -⟩ := h.buffers
    have hlen := encodeMessage_length hw
    have hframe := State.withFrame_frame hin (encodeMessage s.cfg m)
    have hmove : step (s.withFrame (encodeMessage s.cfg m)) = .next (frameArm m _) :=
      step_frame_decoder rfl rfl rfl rfl
        ((congrArg _ hframe).trans (decodeMessage_encodeMessage h.config hw)) hw
    obtain ⟨hst, -, hmsg, herr, hp⟩ := frameArm_result m (s.withFrame (encodeMessage s.cfg m))
    obtain ⟨-, hbuf, hinLen, -, -, -, -, -, -, -, -, hepoch⟩ :=
      frameArm_keepsOutsideDecoder m (s.withFrame (encodeMessage s.cfg m))
    refine ⟨_, ?_, hst, hmsg, herr, ?_, ?_⟩
    · rw [run_load_start hb (hlen.trans_le (Message.frameLength_le h.config hw)) hi 1]
      exact core_run_succ hmove 0
    · rw [State.frame, hinLen]
      exact (State.bytesFrom_congr hbuf hepoch _ _).trans hframe
    · rw [hp, hinLen]
      exact (Nat.zero_add _).trans hlen.symm
  · intro s m h hb hw hi
    obtain ⟨-, hout, -⟩ := h.buffers
    have hmove : step ({ s with inputs := [], emsg := some m } : State).beginEncode =
        .next (({ s with inputs := [], emsg := some m } : State).beginEncode.encoded m) := by
      rw [step_moveEncoder rfl rfl rfl, moveEncoder_frame rfl]
      exact exec_frame_encoder h.config hw rfl rfl rfl
    obtain ⟨hholds, hlen, hsame, -⟩ :=
      State.encoded_frame (s := ({ s with inputs := [], emsg := some m } : State).beginEncode) hw hout
    refine ⟨_, ?_, rfl, rfl, rfl, hlen, hholds, hsame⟩
    rw [run_write_start hb hw hi 1]
    exact core_run_succ hmove 0

end Sys2Proof.Machine
end

section
/-! SUPPORT. Failures, starts and refusals (R230 to R241): a row that fails reads `IN` at the cursor and nowhere else, a
start request is served unless its unit is BUSY, and the encoder and the quantizer have no failure to take. -/

namespace Sys2Proof.Machine

/-! ## The bytes of `IN` -/

/-- The bytes of `IN` set to given ones, `IN_LEN` and all else as they were (R30). -/
def State.withIn (s : State) (b : Memory) : State := { s with inBuf := b }

section
variable {s t : State} {b : Memory}

/-- R181: the cursor reads the byte at `P`. -/
theorem State.cursor_withIn (h : b.read s.p = s.inBuf.read s.p) : (s.withIn b).cursor = s.cursor := by
  have hbyte : (s.withIn b).inByte s.p = s.inByte s.p := by simp only [State.inByte, State.withIn, h]
  exact congrArg (fun v => if s.p < s.inLen then some v else none) hbyte

/-- R196: a row does the same whatever the bytes of `IN` at other places than the cursor are, and leaves them alone: it
reads `IN` through the cursor only. -/
theorem row_withIn (h : b.read s.p = s.inBuf.read s.p) :
    row (s.withIn b) = andThen (row s) fun t => .next (t.withIn b) := by
  have hcfg : (s.withIn b).cfg = s.cfg := rfl
  have hphase : (s.withIn b).phase = s.phase := rfl
  have hp : (s.withIn b).p = s.p := rfl
  have hlen : (s.withIn b).inLen = s.inLen := rfl
  have haddr : (s.withIn b).addr = s.addr := rfl
  have hkind : (s.withIn b).kind = s.kind := rfl
  have hpop : (s.withIn b).popSlot = s.popSlot := rfl
  have hmsg : (s.withIn b).capturedMessage = s.capturedMessage := rfl
  simp only [row, hphase]
  cases s.phase
  all_goals
    simp only [rowHeader, rowAddr, rowKind, rowVer, rowPop, rowFld1, rowFld2, rowPlh, rowStr, rowTerm, hcfg, hp, hlen,
      State.cursor_withIn h, haddr, hkind, hpop, hmsg]
    repeat' split
    all_goals rfl

/-! ## Failures (R230, R237) -/

/-- R237: a row that ends in ERR has taken a failure, and no other way leads there. -/
theorem row_failed (hb : s.dstatus = .busy) (h : row s = .next t) (herr : t.dstatus = .err) : ∃ e, t = s.raise e := by
  rcases row_next h with hraise | ⟨-, m, rfl⟩ | ⟨-, a, k, op, f1, f2, v, ph, rfl⟩ | ⟨-, rfl⟩
  · exact hraise
  · cases herr
  · exact absurd (hb.symm.trans herr) (by decide)
  · exact absurd (hb.symm.trans herr) (by decide)

end

/-- Settles O43: a decoder step that ends in ERR has raised one kind, and its row reads `IN` at the cursor only. -/
theorem failureRecordsOnlyItsKind : Obligations.FailureRecordsOnlyItsKind := by
  refine ⟨fun s t hb hm h herr => ?_, rfl, rfl, rfl, rfl, rfl⟩
  rw [tickDecoder, if_pos hb] at h
  obtain ⟨e, rfl⟩ := row_failed hb h herr
  refine ⟨e, rfl, hm, fun rest => ?code, fun b hread => ?otherBytes⟩
  case code =>
    obtain ⟨-, -, -, hcode, -⟩ := decodeResultReads { s.raise e with inputs := .readDErr :: rest } rest
    exact hcode e rfl rfl rfl
  case otherBytes =>
    have hrow : row (s.withIn b) = .next ((s.raise e).withIn b) := by rw [row_withIn hread, h, andThen_next_eq]
    exact (if_pos hb).trans hrow

/-- Settles O58: under the invariant the whole frame of a started encode fits `OUT`, and the quantizer's port takes every
integer 0..255. -/
theorem encoderAndQuantizerNeverFail : Obligations.EncoderAndQuantizerNeverFail := by
  constructor
  · rintro s m h hi hturn ⟨hb, hidx, rfl, -⟩
    refine ⟨s.encoded s.messageIn, ?_, rfl⟩
    rw [step_moveEncoder hi hturn hb, moveEncoder_frame hidx, exec_frame_encoder h.config h.emsg hturn hb hidx]
  · intro s rest x hi
    have hlevel := (step_request hi).trans (quantize_natCast (Nat.le_of_lt_succ x.isLt) _)
    exact ⟨_, _, hlevel, rfl, pctToLevel_le x.toNat⟩

/-! ## Start requests (R239, R241, R266) -/

section
variable {s : State} {rest : List Request}

theorem step_startDecode (hi : s.inputs = .startDecode :: rest) (hb : s.dstatus ≠ .busy) :
    step s = .next ({ s with inputs := rest } : State).beginDecode := by
  rw [step_request hi]
  exact if_neg hb

theorem step_startEncode (hi : s.inputs = .startEncode :: rest) (hb : s.estatus ≠ .busy) :
    step s = .next ({ s with inputs := rest } : State).beginEncode := by
  rw [step_request hi]
  exact if_neg hb

end

/-- Settles O32: a start overwrites the previous status, error and message. -/
theorem decodeStartsAlikeFromEveryResult : Obligations.DecodeStartsAlikeFromEveryResult := by
  intro s rest hi hb
  have hstart := step_startDecode hi hb
  refine ⟨⟨_, hstart, ?started, rfl, rfl, rfl, rfl, rfl, rfl, rfl, rfl, rfl⟩, fun d e m hd => ?alike⟩
  case started => exact ⟨rfl, rfl, rfl, ⟨rfl, rfl, rfl, rfl, rfl, rfl⟩, rfl, rfl⟩
  case alike =>
    exact (step_startDecode (s := { s with dstatus := d, derr := e, dmsg := m }) hi hd).trans hstart.symm

/-- Settles O33: each request is tested against its own unit's status and against `MAX_FRAME_LEN`. -/
theorem refusalsAreNotErrors : Obligations.RefusalsAreNotErrors := by
  refine fun s rest => ⟨fun bs hi hb hlong => ?_, fun n hi hb hlong => ?_, fun hi hb => ?_, fun hi hb => ?_,
    fun hi hb => ⟨_, step_startDecode hi hb, rfl⟩,
    fun m hi hb hm => ⟨_, step_startEncode hi hb, rfl, rfl, State.messageIn_written hm, rfl⟩⟩
  · rw [step_request hi]
    exact (if_neg hb).trans (if_pos hlong)
  · rw [step_request hi]
    exact (if_neg hb).trans (if_pos hlong)
  · rw [step_request hi]
    exact if_pos hb
  · rw [step_request hi]
    exact if_pos hb

end Sys2Proof.Machine
end

section
/-! SUPPORT. Reset and hazards (R260 to R265): what a reset leaves, what a write to a unit's inputs does, and that a unit's
result is written by that unit alone, so that a visible one stays until the next start. -/

namespace Sys2Proof.Machine

/-! ## Visible results (R265) -/

/-- R31: the decoder's status, message and error are as they were. -/
def State.SameDecodeResult (s t : State) : Prop :=
  t.dstatus = s.dstatus ∧ t.dmsg = s.dmsg ∧ t.derr = s.derr

/-- R32: the encoder's status, `OUT_LEN` and `OUT` are as they were. -/
def State.SameEncodeResult (s t : State) : Prop :=
  t.estatus = s.estatus ∧ t.outLen = s.outLen ∧ t.outBuf = s.outBuf

section
variable {s t : State}

theorem State.SameDecodeResult.rfl : s.SameDecodeResult s := ⟨.refl _, .refl _, .refl _⟩

theorem State.SameEncodeResult.rfl : s.SameEncodeResult s := ⟨.refl _, .refl _, .refl _⟩

theorem State.KeepsOutsideDecoder.sameEncodeResult (h : s.KeepsOutsideDecoder t) : s.SameEncodeResult t := by
  obtain ⟨-, -, -, -, hstatus, -, hout, hlen, -⟩ := h
  exact ⟨hstatus, hlen, hout⟩

theorem State.KeepsOutsideEncoder.sameDecodeResult (h : s.KeepsOutsideEncoder t) : s.SameDecodeResult t := by
  obtain ⟨-, -, -, -, -, -, -, -, -, -, -, hstatus, herr, hmsg, -⟩ := h
  exact ⟨hstatus, hmsg, herr⟩

theorem State.keepsOutsideEncoder_self (s : State) : s.KeepsOutsideEncoder s := by
  simp [State.KeepsOutsideEncoder]

/-- An emit writes the encoder's status, index and outputs only. -/
theorem emitNext_keepsOutsideEncoder (h : emitNext s = .next t) : s.KeepsOutsideEncoder t := by
  obtain ⟨v, -, -, rfl⟩ := emitNext_next h
  simp only [doneAfter]
  split <;> exact s.keepsOutsideEncoder_self

/-- The decoder's own move writes the decoder's registers only. -/
theorem moveDecoder_keepsOutsideDecoder (hturn : s.turn = .decoder) (h : moveDecoder s = .next t) :
    s.KeepsOutsideDecoder t := by
  rcases moveDecoder_next h with ⟨-, m, -, hm⟩ | ⟨-, pv, rest, -, hp⟩ | ⟨n, hn⟩ | hr
  · obtain ⟨-, ⟨-, -, -, rfl⟩ | ⟨hencoder, -⟩⟩ := runFrame_next hm
    · exact frameArm_keepsOutsideDecoder m s
    · simp [hturn] at hencoder
  · obtain ⟨-, ⟨-, -, -, rfl⟩ | ⟨hencoder, -⟩⟩ := runEntry_next hp
    · simp [State.KeepsOutsideDecoder]
    · simp [hturn] at hencoder
  · exact runRows_keeps (P := s.KeepsOutsideDecoder) (fun u w hu _ hw => hu.trans (row_keepsOutsideDecoder hw)) n
      s.keepsOutsideDecoder_self hn
  · exact row_keepsOutsideDecoder hr

/-- The encoder's own move writes the encoder's status, index and outputs only. -/
theorem moveEncoder_keepsOutsideEncoder (hturn : s.turn = .encoder) (h : moveEncoder s = .next t) :
    s.KeepsOutsideEncoder t := by
  rcases moveEncoder_next h with ⟨-, hm⟩ | ⟨pv, -, hp⟩ | he
  · obtain ⟨-, ⟨hdecoder, -⟩ | ⟨-, -, -, -, rfl⟩⟩ := runFrame_next hm
    · simp [hturn] at hdecoder
    · exact s.keepsOutsideEncoder_self
  · obtain ⟨-, ⟨hdecoder, -⟩ | ⟨-, -, -, rfl⟩⟩ := runEntry_next hp
    · simp [hturn] at hdecoder
    · exact s.keepsOutsideEncoder_self
  · exact emitNext_keepsOutsideEncoder he

/-- A step of either unit leaves the result of a decoder that is not BUSY. -/
theorem tick_sameDecodeResult {u : Agent} (hb : s.dstatus ≠ .busy) (h : tick u s = .next t) : s.SameDecodeResult t := by
  cases u with
  | decoder =>
    rw [tick, tickDecoder, if_neg hb] at h
    cases h
    exact .rfl
  | encoder =>
    simp only [tick, tickEncoder] at h
    split at h
    · exact (emitNext_keepsOutsideEncoder h).sameDecodeResult
    · cases h
      exact .rfl

/-- A step of either unit leaves the result of an encoder that is not BUSY. -/
theorem tick_sameEncodeResult {u : Agent} (hb : s.estatus ≠ .busy) (h : tick u s = .next t) : s.SameEncodeResult t := by
  cases u with
  | decoder => exact (tickDecoder_keepsOutsideDecoder h).sameEncodeResult
  | encoder =>
    rw [tick, tickEncoder, if_neg hb] at h
    cases h
    exact .rfl

/-- A start request writes the result of its own unit only; a request that is no reset, no start and no step of a unit
writes neither. -/
theorem serve_results {r : Request} (h : serve r s = .next t) :
    (s.SameDecodeResult t ∧ s.SameEncodeResult t) ∨ r = .reset ∨ (∃ u, tick u s = .next t) ∨
      (r = .startDecode ∧ s.SameEncodeResult t) ∨ (r = .startEncode ∧ s.SameDecodeResult t) := by
  cases r with
  | reset => exact .inr (.inl rfl)
  | tick u => exact .inr (.inr (.inl ⟨u, h⟩))
  | startDecode =>
    obtain ⟨-, rfl⟩ := startDecode_next h
    exact .inr (.inr (.inr (.inl ⟨rfl, .rfl⟩)))
  | startEncode =>
    obtain ⟨-, rfl⟩ := startEncode_next h
    exact .inr (.inr (.inr (.inr ⟨rfl, .rfl⟩)))
  | loadFrame bs =>
    obtain ⟨-, -, rfl⟩ := loadFrame_next h
    exact .inl ⟨.rfl, .rfl⟩
  | writeIn a b =>
    obtain ⟨-, -, rfl⟩ := writeIn_next h
    exact .inl ⟨.rfl, .rfl⟩
  | writeInLen n =>
    obtain ⟨-, -, rfl⟩ := writeInLen_next h
    exact .inl ⟨.rfl, .rfl⟩
  | loadMessage m =>
    obtain ⟨-, -, rfl⟩ := loadMessage_next h
    exact .inl ⟨.rfl, .rfl⟩
  | quantize x =>
    obtain ⟨v, rfl⟩ := quantize_next h
    exact .inl ⟨.rfl, .rfl⟩
  | readDStatus =>
    cases h
    exact .inl ⟨.rfl, .rfl⟩
  | readDMsg =>
    obtain ⟨v, rfl⟩ := readDMsg_next h
    exact .inl ⟨.rfl, .rfl⟩
  | readDErr =>
    obtain ⟨v, rfl⟩ := readDErr_next h
    exact .inl ⟨.rfl, .rfl⟩
  | readEStatus =>
    cases h
    exact .inl ⟨.rfl, .rfl⟩
  | readOut i =>
    obtain ⟨v, rfl⟩ := readOut_next h
    exact .inl ⟨.rfl, .rfl⟩
  | readOutLen =>
    obtain ⟨v, rfl⟩ := readOutLen_next h
    exact .inl ⟨.rfl, .rfl⟩

/-- R265: the result of a decoder that is not BUSY changes only by a reset or a decode start. -/
theorem step_sameDecodeResult (h : step s = .next t) (hreset : ∀ rest, s.inputs ≠ .reset :: rest)
    (hstart : ∀ rest, s.inputs ≠ .startDecode :: rest) (hb : s.dstatus ≠ .busy) : s.SameDecodeResult t := by
  rcases step_cases s with ⟨r, rest, hi, hs⟩ | ⟨-, hs⟩
  · rcases serve_results (hs ▸ h) with ⟨hkeep, -⟩ | rfl | ⟨u, hu⟩ | ⟨rfl, -⟩ | ⟨-, hkeep⟩
    · exact hkeep
    · exact absurd hi (hreset rest)
    · exact tick_sameDecodeResult (s := { s with inputs := rest }) hb hu
    · exact absurd hi (hstart rest)
    · exact hkeep
  · rcases moveBlock_next (hs ▸ h) with ⟨-, rfl⟩ | ⟨-, hbusy, -⟩ | ⟨-, -, hm⟩
    · exact .rfl
    · exact absurd hbusy hb
    · exact (moveEncoder_keepsOutsideEncoder (s := { s with turn := .encoder }) rfl hm).sameDecodeResult

/-- R265: the result of an encoder that is not BUSY changes only by a reset or an encode start. -/
theorem step_sameEncodeResult (h : step s = .next t) (hreset : ∀ rest, s.inputs ≠ .reset :: rest)
    (hstart : ∀ rest, s.inputs ≠ .startEncode :: rest) (hb : s.estatus ≠ .busy) : s.SameEncodeResult t := by
  rcases step_cases s with ⟨r, rest, hi, hs⟩ | ⟨-, hs⟩
  · rcases serve_results (hs ▸ h) with ⟨-, hkeep⟩ | rfl | ⟨u, hu⟩ | ⟨-, hkeep⟩ | ⟨rfl, -⟩
    · exact hkeep
    · exact absurd hi (hreset rest)
    · exact tick_sameEncodeResult (s := { s with inputs := rest }) hb hu
    · exact hkeep
    · exact absurd hi (hstart rest)
  · rcases moveBlock_next (hs ▸ h) with ⟨-, rfl⟩ | ⟨-, -, hm⟩ | ⟨-, hbusy, -⟩
    · exact .rfl
    · exact (moveDecoder_keepsOutsideDecoder (s := { s with turn := .decoder }) rfl hm).sameEncodeResult
    · exact absurd hbusy hb

/-- R32: `OUT` is not read while the encoder is not DONE, whatever the address. -/
theorem step_readOut_faults {i : Nat} {rest : List Request} (hi : s.inputs = .readOut i :: rest)
    (hd : s.estatus ≠ .done) : ∃ e, step s = .fault e := by
  obtain ⟨hnoValue, -⟩ := encodeResultReads s rest
  rcases Nat.lt_or_ge i s.cfg.maxFrameLen with hlt | hge
  · exact ⟨_, hnoValue i hi hd hlt⟩
  · exact ⟨_, (step_request hi).trans (if_pos hge)⟩

end

/-- Settles O38: a result is written by its own unit's moves, by a start request to that unit and by reset, and a read of a
result that is not there faults. -/
theorem visibleResultsStay : Obligations.VisibleResultsStay := by
  intro s t h hreset
  refine ⟨fun hd hstart => ?decode, fun he hstart => ?encode, fun hb rest => ?readDecode, fun hb rest => ?readEncode⟩
  case decode =>
    have hb : s.dstatus ≠ .busy := by rcases hd with hd | hd <;> simp [hd]
    exact step_sameDecodeResult h hreset hstart hb
  case encode =>
    obtain ⟨hstatus, hkeep⟩ := step_sameEncodeResult h hreset hstart (by simp [he])
    exact ⟨hstatus.trans he, hkeep⟩
  case readDecode =>
    obtain ⟨hmsg, herr, -⟩ := decodeResultReads s rest
    constructor
    · intro hi
      cases h.symm.trans (hmsg hi (by simp [hb]))
    · intro hi
      cases h.symm.trans (herr hi (by simp [hb]))
  case readEncode =>
    obtain ⟨-, hlen, -⟩ := encodeResultReads s rest
    refine ⟨fun hi => ?_, fun i hi => ?_⟩
    · cases h.symm.trans (hlen hi hb)
    · obtain ⟨e, hfault⟩ := step_readOut_faults hi hb
      cases h.symm.trans hfault

/-! ## Reset (R260) -/

/-- R260: with no request and no unit BUSY, the block waits. -/
theorem step_waits {s : State} (hi : s.inputs = []) (hd : s.dstatus ≠ .busy) (he : s.estatus ≠ .busy) :
    step s = .next s := by
  have hmover : s.mover = none := by
    cases hturn : s.turn <;> simp [State.mover, hturn, State.unitBusy, hd, he]
  simp only [step, hi, moveBlock, hmover]

/-- Settles O30: the step leaves the reset state with the configuration, in which neither unit is BUSY. -/
theorem resetAbandonsOperation : Obligations.ResetAbandonsOperation := by
  intro s rest hi
  refine ⟨({ s with inputs := rest } : State).resetBlock, step_request hi, ?_⟩
  simp only [State.resetBlock_dstatus, State.resetBlock_estatus, State.resetBlock_derr, State.resetBlock_dmsg,
    State.resetBlock_outLen, State.resetBlock_phase, State.resetBlock_p, State.resetBlock_vstr, State.resetBlock_addr,
    State.resetBlock_kind, State.resetBlock_pop, State.resetBlock_fv1, State.resetBlock_fv2, State.resetBlock_emsg,
    State.resetBlock_cfg, State.resetBlock_inputs, true_and]
  intro hrest
  exact step_waits hrest (by simp) (by simp)

/-! ## Writes to a unit's inputs (R263, R264) -/

/-- R44: a byte of `IN` that has been written reads as that byte. -/
theorem State.inByte_written {s : State} {a : Nat} {b : Byte} (h : s.inBuf.read a = some b) : s.inByte a = b := by
  rw [State.inByte, h]

/-- R44: writing one byte leaves every other byte as it was. -/
theorem Memory.write_sameOutside {m : Memory} (h : Memory.wf m) (a : Nat) (b : Byte) :
    Memory.SameOutside m (m.write a b) a 1 :=
  Memory.writeAll_sameOutside h a [b]

/-- Settles O34: each request passes its unit's test and its range test, and a run of writes stands in `IN` and leaves the
rest of it alone. -/
theorem loadedFrameIsTheFrame : Obligations.LoadedFrameIsTheFrame := by
  intro s rest
  refine ⟨fun bs hi hb hfit hwf => ?loadFrame, fun a b hi hb ha hwf => ?writeIn, fun n hi hb hn => ?writeInLen,
    fun m hi hb hm => ?loadMessage, fun hi hb => ?startEncode⟩
  case loadFrame =>
    have hstep : step s = .next { s with inputs := rest, inBuf := s.inBuf.writeAll 0 bs, inLen := bs.length } := by
      rw [step_request hi]
      exact (if_neg hb).trans (if_neg (Nat.not_lt.2 hfit))
    exact ⟨_, hstep, State.bytesFrom_of_holds (Memory.writeAll_holds hwf 0 bs), rfl,
      Memory.writeAll_sameOutside hwf 0 bs, rfl⟩
  case writeIn =>
    have hstep : step s = .next { s with inputs := rest, inBuf := s.inBuf.write a b } := by
      rw [step_request hi]
      exact (if_neg hb).trans (if_neg (Nat.not_le.2 ha))
    exact ⟨_, hstep, State.inByte_written (Memory.read_write_same s.inBuf a b hwf), Memory.write_sameOutside hwf a b, rfl⟩
  case writeInLen =>
    rw [step_request hi]
    exact (if_neg hb).trans (if_neg (Nat.not_lt.2 hn))
  case loadMessage =>
    have hstep : step s = .next { s with inputs := rest, emsg := some m } := by
      rw [step_request hi]
      exact (if_neg hb).trans (if_pos hm)
    exact ⟨_, hstep, rfl, rfl⟩
  case startEncode =>
    refine ⟨⟨_, step_startEncode hi hb, ⟨rfl, rfl, rfl, rfl⟩, rfl⟩, fun hnone => State.messageIn_wf fun m hm => ?_⟩
    rw [hnone] at hm
    cases hm

/-- Settles O35: each write tests its unit's status first. -/
theorem writeWhileBusyFaults : Obligations.WriteWhileBusyFaults := by
  refine fun s rest => ⟨fun hb => ⟨fun bs hi => ?_, fun a b hi => ?_, fun n hi => ?_⟩, fun hb m hi => ?_⟩
  all_goals
    rw [step_request hi]
    exact if_pos hb

end Sys2Proof.Machine
end
